-- ==== Sys2Proof/Word.lean ====
section
/-! DEFINITION. The word types of the RC8 core and the fields of an opcode word (00_scope.md R8; 10_state.md R21, R23, R24; 30_encoding.md R71). -/

namespace Sys2Proof

/-- A byte: a memory cell, a general register, a timer, an immediate `kk` (R21, R50, R73). -/
abbrev Byte := BitVec 8

/-- A 16-bit word: an opcode, the pc, the index register, a return address (R23, R24, R27, R70). -/
abbrev Word := BitVec 16

/-- The 12-bit address field `nnn` of an opcode (R71, R73). -/
abbrev Addr := BitVec 12

/-- The number of a general register, V0 to VF (R21, R74). -/
abbrev Reg := Fin 16

/-- VF: a general register and the carry, borrow and collision flag (R22). -/
abbrev vf : Reg := 15

/-- `zext_16(nnn)` (R8, R73). -/
def zext16Addr (a : Addr) : Word := a.setWidth 16

/-- `zext_16(v)` of a byte (R8, R73). -/
def zext16Byte (b : Byte) : Word := b.setWidth 16

end Sys2Proof
end

