-- ==== Sys2Proof/Syntax.lean ====
section
/-! DEFINITION. The instructions of the RC8 ISA: one constructor per row of spec/opcode_table.json, 34 in all (30_encoding.md R75). The operand types hold exactly the values the encoding's fields hold (R71, R73, R74). -/

namespace Sys2Proof

/-- One instruction with its operands. `x` and `y` are register numbers, `kk` a byte, `nnn` a 12-bit
address, `n` a row count 0..15 (R71, R73, R74). -/
inductive Instr where
  /-- 00E0 `CLS` (R200). -/
  | cls
  /-- 00EE `RET` (R100). -/
  | ret
  /-- 1nnn `JP nnn` (R101). -/
  | jp (nnn : Addr)
  /-- 2nnn `CALL nnn` (R102). -/
  | call (nnn : Addr)
  /-- 3xkk `SE Vx, kk` (R103). -/
  | seImm (x : Reg) (kk : Byte)
  /-- 4xkk `SNE Vx, kk` (R104). -/
  | sneImm (x : Reg) (kk : Byte)
  /-- 5xy0 `SE Vx, Vy` (R105). -/
  | seReg (x y : Reg)
  /-- 6xkk `LD Vx, kk` (R130). -/
  | ldImm (x : Reg) (kk : Byte)
  /-- 7xkk `ADD Vx, kk` (R131). -/
  | addImm (x : Reg) (kk : Byte)
  /-- 8xy0 `LD Vx, Vy` (R132). -/
  | ldReg (x y : Reg)
  /-- 8xy1 `OR Vx, Vy` (R133). -/
  | orReg (x y : Reg)
  /-- 8xy2 `AND Vx, Vy` (R134). -/
  | andReg (x y : Reg)
  /-- 8xy3 `XOR Vx, Vy` (R135). -/
  | xorReg (x y : Reg)
  /-- 8xy4 `ADD Vx, Vy` (R136). -/
  | addReg (x y : Reg)
  /-- 8xy5 `SUB Vx, Vy` (R137). -/
  | subReg (x y : Reg)
  /-- 8xy6 `SHR Vx, Vy` (R138). -/
  | shrReg (x y : Reg)
  /-- 8xy7 `SUBN Vx, Vy` (R139). -/
  | subnReg (x y : Reg)
  /-- 8xyE `SHL Vx, Vy` (R140). -/
  | shlReg (x y : Reg)
  /-- 9xy0 `SNE Vx, Vy` (R106). -/
  | sneReg (x y : Reg)
  /-- Annn `LD I, nnn` (R170). -/
  | ldI (nnn : Addr)
  /-- Bnnn `JP V0, nnn` (R107). -/
  | jpV0 (nnn : Addr)
  /-- Cxkk `RND Vx, kk` (R141). -/
  | rnd (x : Reg) (kk : Byte)
  /-- Dxyn `DRW Vx, Vy, n` (R201). -/
  | drw (x y : Reg) (n : Fin 16)
  /-- Ex9E `SKP Vx` (R220). -/
  | skp (x : Reg)
  /-- ExA1 `SKNP Vx` (R221). -/
  | sknp (x : Reg)
  /-- Fx07 `LD Vx, DT` (R240). -/
  | ldVxDt (x : Reg)
  /-- Fx0A `LD Vx, K` (R222). -/
  | ldVxKey (x : Reg)
  /-- Fx15 `LD DT, Vx` (R241). -/
  | ldDtVx (x : Reg)
  /-- Fx18 `LD ST, Vx` (R242). -/
  | ldStVx (x : Reg)
  /-- Fx1E `ADD I, Vx` (R171). -/
  | addI (x : Reg)
  /-- Fx29 `LD F, Vx` (R172). -/
  | ldFont (x : Reg)
  /-- Fx33 `LD B, Vx` (R173). -/
  | ldBcd (x : Reg)
  /-- Fx55 `LD [I], Vx` (R174). -/
  | storeRegs (x : Reg)
  /-- Fx65 `LD Vx, [I]` (R175). -/
  | loadRegs (x : Reg)
deriving DecidableEq, Repr

end Sys2Proof
end

