-- ==== Sys2Proof/Decode.lean ====
section
/-! DEFINITION. Decoding an opcode word by the opcode map (30_encoding.md R70 to R79) and encoding an instruction by the formats (R72). -/

namespace Sys2Proof

/-- The verdict of decoding one word: an instruction, or the illegal word itself, which the fetch
cycle turns into `InvalidOpcode` (R77, R79). -/
inductive Decoded where
  | instr (i : Instr)
  | illegal (op : Word)
deriving DecidableEq, Repr

/-- Field `t` = op[15:12], the instruction family (R71). -/
def opT (op : Word) : Nat := (op.extractLsb 15 12).toNat

/-- Field `x` = op[11:8] (R71). -/
def opX (op : Word) : Reg := (op.extractLsb 11 8).toFin

/-- Field `y` = op[7:4] (R71). -/
def opY (op : Word) : Reg := (op.extractLsb 7 4).toFin

/-- Field `n` = op[3:0] (R71). -/
def opN (op : Word) : Fin 16 := (op.extractLsb 3 0).toFin

/-- Field `kk` = op[7:0] (R71). -/
def opKK (op : Word) : Byte := op.extractLsb 7 0

/-- Field `nnn` = op[11:0] (R71). -/
def opNNN (op : Word) : Addr := op.extractLsb 11 0

/-- Family 0x0: the whole word must match (R75, R76). -/
def decodeFix (op : Word) : Decoded :=
  match op.toNat with
  | 0x00E0 => .instr .cls
  | 0x00EE => .instr .ret
  | _ => .illegal op

/-- Family 0x8: bits 3:0 select (R75, R76). -/
def decodeAlu (op : Word) : Decoded :=
  match (opN op).val with
  | 0x0 => .instr (.ldReg (opX op) (opY op))
  | 0x1 => .instr (.orReg (opX op) (opY op))
  | 0x2 => .instr (.andReg (opX op) (opY op))
  | 0x3 => .instr (.xorReg (opX op) (opY op))
  | 0x4 => .instr (.addReg (opX op) (opY op))
  | 0x5 => .instr (.subReg (opX op) (opY op))
  | 0x6 => .instr (.shrReg (opX op) (opY op))
  | 0x7 => .instr (.subnReg (opX op) (opY op))
  | 0xE => .instr (.shlReg (opX op) (opY op))
  | _ => .illegal op

/-- Family 0xE: bits 7:0 select (R75, R76). -/
def decodeKey (op : Word) : Decoded :=
  match (opKK op).toNat with
  | 0x9E => .instr (.skp (opX op))
  | 0xA1 => .instr (.sknp (opX op))
  | _ => .illegal op

/-- Family 0xF: bits 7:0 select (R75, R76). -/
def decodeMisc (op : Word) : Decoded :=
  match (opKK op).toNat with
  | 0x07 => .instr (.ldVxDt (opX op))
  | 0x0A => .instr (.ldVxKey (opX op))
  | 0x15 => .instr (.ldDtVx (opX op))
  | 0x18 => .instr (.ldStVx (opX op))
  | 0x1E => .instr (.addI (opX op))
  | 0x29 => .instr (.ldFont (opX op))
  | 0x33 => .instr (.ldBcd (opX op))
  | 0x55 => .instr (.storeRegs (opX op))
  | 0x65 => .instr (.loadRegs (opX op))
  | _ => .illegal op

/-- `Decode`: total on all words, and a function of the word alone (R75, R76, R79). The last arm is
never taken: `opT` is below 16. -/
def decode (op : Word) : Decoded :=
  match opT op with
  | 0x0 => decodeFix op
  | 0x1 => .instr (.jp (opNNN op))
  | 0x2 => .instr (.call (opNNN op))
  | 0x3 => .instr (.seImm (opX op) (opKK op))
  | 0x4 => .instr (.sneImm (opX op) (opKK op))
  | 0x5 => if opN op = 0 then .instr (.seReg (opX op) (opY op)) else .illegal op
  | 0x6 => .instr (.ldImm (opX op) (opKK op))
  | 0x7 => .instr (.addImm (opX op) (opKK op))
  | 0x8 => decodeAlu op
  | 0x9 => if opN op = 0 then .instr (.sneReg (opX op) (opY op)) else .illegal op
  | 0xA => .instr (.ldI (opNNN op))
  | 0xB => .instr (.jpV0 (opNNN op))
  | 0xC => .instr (.rnd (opX op) (opKK op))
  | 0xD => .instr (.drw (opX op) (opY op) (opN op))
  | 0xE => decodeKey op
  | 0xF => decodeMisc op
  | _ => .illegal op

/-- A big-endian word of two bytes: the first byte is bits 15:8 (20_memory.md R56). -/
def wordOfBytes (hi lo : Byte) : Word := BitVec.ofNat 16 (hi.toNat * 256 + lo.toNat)

/-- Bits 15:8 of a word, its first byte in memory (R56). -/
def highByte (w : Word) : Byte := w.extractLsb 15 8

/-- Bits 7:0 of a word, its second byte in memory (R56). -/
def lowByte (w : Word) : Byte := w.extractLsb 7 0

/-- What decoding the start of a byte sequence gives: a decoder always consumes exactly 2 bytes (R70). -/
inductive BytesDecoded where
  | instr (i : Instr) (rest : List Byte)
  | illegal (op : Word)
  | truncated
deriving DecidableEq, Repr

/-- Decoding any byte sequence (R56, R70, R79). -/
def decodeBytes : List Byte → BytesDecoded
  | hi :: lo :: rest =>
    match decode (wordOfBytes hi lo) with
    | .instr i => .instr i rest
    | .illegal op => .illegal op
  | _ => .truncated

/-- Format `NNN`: t, nnn (R72). -/
def packNNN (t : Nat) (nnn : Addr) : Word := BitVec.ofNat 16 (t * 4096 + nnn.toNat)

/-- Formats `XKK` and `XSS`: t, x, kk or the selector byte (R72). -/
def packXKK (t : Nat) (x : Reg) (kk : Byte) : Word :=
  BitVec.ofNat 16 (t * 4096 + x.val * 256 + kk.toNat)

/-- Formats `XYN` and `XYS`: t, x, y, n or the selector nibble (R72). -/
def packXYN (t : Nat) (x y : Reg) (n : Fin 16) : Word :=
  BitVec.ofNat 16 (t * 4096 + x.val * 256 + y.val * 16 + n.val)

/-- The word of an instruction (R72, R75). -/
def encode : Instr → Word
  | .cls => 0x00E0
  | .ret => 0x00EE
  | .jp nnn => packNNN 0x1 nnn
  | .call nnn => packNNN 0x2 nnn
  | .seImm x kk => packXKK 0x3 x kk
  | .sneImm x kk => packXKK 0x4 x kk
  | .seReg x y => packXYN 0x5 x y 0x0
  | .ldImm x kk => packXKK 0x6 x kk
  | .addImm x kk => packXKK 0x7 x kk
  | .ldReg x y => packXYN 0x8 x y 0x0
  | .orReg x y => packXYN 0x8 x y 0x1
  | .andReg x y => packXYN 0x8 x y 0x2
  | .xorReg x y => packXYN 0x8 x y 0x3
  | .addReg x y => packXYN 0x8 x y 0x4
  | .subReg x y => packXYN 0x8 x y 0x5
  | .shrReg x y => packXYN 0x8 x y 0x6
  | .subnReg x y => packXYN 0x8 x y 0x7
  | .shlReg x y => packXYN 0x8 x y 0xE
  | .sneReg x y => packXYN 0x9 x y 0x0
  | .ldI nnn => packNNN 0xA nnn
  | .jpV0 nnn => packNNN 0xB nnn
  | .rnd x kk => packXKK 0xC x kk
  | .drw x y n => packXYN 0xD x y n
  | .skp x => packXKK 0xE x 0x9E
  | .sknp x => packXKK 0xE x 0xA1
  | .ldVxDt x => packXKK 0xF x 0x07
  | .ldVxKey x => packXKK 0xF x 0x0A
  | .ldDtVx x => packXKK 0xF x 0x15
  | .ldStVx x => packXKK 0xF x 0x18
  | .addI x => packXKK 0xF x 0x1E
  | .ldFont x => packXKK 0xF x 0x29
  | .ldBcd x => packXKK 0xF x 0x33
  | .storeRegs x => packXKK 0xF x 0x55
  | .loadRegs x => packXKK 0xF x 0x65

/-- The word that spec/opcode_table.json's numbering of `nbits` bits of `w` means: one 16-bit word,
bit 0 its least significant bit, every bit at `nbits` and above 0. -/
def tableWord (nbits w : Nat) : Word := BitVec.ofNat 16 (w % 2 ^ nbits)

/-- The instruction the decoder reads from a table-numbered word, laid out as the core stores it
(high byte first, R56). -/
def decodeTableWord (nbits w : Nat) : Option Instr :=
  match decodeBytes [highByte (tableWord nbits w), lowByte (tableWord nbits w)] with
  | .instr i _ => some i
  | .illegal _ => none
  | .truncated => none

end Sys2Proof
end

