-- ==== Sys2Proof/Config.lean ====
section
/-! DEFINITION. The fixed parameters (00_scope.md R6), the configuration parameters of a core instance (R7, R35) and the model's free values: the open quirk setting and the inputs no host has scheduled. -/

namespace Sys2Proof

/-- Memory size in bytes (R6, R50). -/
abbrev memSize : Nat := 4096

/-- Program origin: the reset pc and the ROM's load address (R6, R51). -/
abbrev programOrigin : Nat := 0x200

/-- `FONT_BASE` (R6, R51). -/
abbrev fontBase : Nat := 0x050

/-- The source operand of 8xy6 and 8xyE (R2, R7). -/
inductive ShiftSrc where
  | vx
  | vy
deriving DecidableEq, Repr, Inhabited

/-- The configuration parameters, fixed for the life of a core instance (R7, R35). -/
structure Config where
  /-- `SHIFT_SRC`. -/
  shiftSrc : ShiftSrc
  /-- `LDST_INC_I`: whether Fx55 and Fx65 add x+1 to I. -/
  ldstIncI : Bool
  /-- `FONT`: the glyph table `loadFontset` writes. -/
  font : Vector Byte 80
deriving DecidableEq, Repr

/-- The `SHIFT_SRC` of the machine right after reset: the spec leaves it OPEN (R7, D19), so it is a
free value: no proof can see which it is. DESIGN CHOICE, notes/assumptions/4.md; safe. -/
opaque Config.openShiftSrc : ShiftSrc

/-- The key sample of a step for which no host input is scheduled (R33: "whatever the host supplies"):
a free value, applied to `State.draws`. DESIGN CHOICE, notes/assumptions/2.md; safe. -/
opaque Config.freeKeys : Nat → Vector Bool 16

/-- The random byte of a step for which no host input is scheduled (R287: "a free draw under no law"):
a free value, applied to `State.draws`. DESIGN CHOICE, notes/assumptions/2.md; safe. -/
opaque Config.freeRnd : Nat → Byte

end Sys2Proof
end

