-- ==== Sys2Proof/Machine/State.lean ====
section
/-! DEFINITION. The machine's state (10_state.md R20 to R37), its value after construction (R38, R39; 70_reset_and_hazards.md R300), and the reasons a step could stop. -/

namespace Sys2Proof.Machine

/-- The memory `MEM` as the cells that do not hold 0x00, addresses strictly rising. An address of the
4096 that is not listed reads as 0x00, its value after construction (R38, R50). -/
abbrev Memory := List Host.Cell

/-- What an unlisted address reads as (R38: `MEM[0..4095]` is 0x00 after construction). -/
def Memory.unlisted : Byte := 0

/-- Every address of the list is at or above `lo`, strictly rising, below 4096, and no cell holds the
unlisted value. -/
def Memory.wfFrom (lo : Nat) : Memory → Bool
  | [] => true
  | (a, b) :: m => decide (lo ≤ a) && decide (a < memSize) && decide (b ≠ Memory.unlisted) && Memory.wfFrom (a + 1) m

/-- The canonical form: equal memories are equal lists. -/
def Memory.wf (m : Memory) : Bool := Memory.wfFrom 0 m

/-- The display buffer `Disp[0..31][0..63]`: 32 rows of 64 one-bit pixels (R30, R31). -/
abbrev Display := Vector (Vector Bool 64) 32

/-- All pixels 0. -/
def Display.blank : Display := Vector.replicate 32 (Vector.replicate 64 false)

/-- The kinds of fault a step can record (R34, 60_exceptions.md R260). -/
inductive FaultKind where
  | invalidOpcode
  | stackOverflow
  | stackUnderflow
  | addressOutOfRange
deriving DecidableEq, Repr

/-- The fault record `{kind, pc, opcode, addr}` (R34, R266). -/
structure FaultRecord where
  kind : FaultKind
  /-- The address of the faulting instruction. -/
  pc : Word
  /-- The fetched word; `none` for a fetch fault. -/
  opcode : Option Word
  /-- The out-of-range address or key index; `none` for the other kinds. -/
  addr : Option Nat
deriving DecidableEq, Repr

/-- The status a step returns (30_encoding.md R91). `notStarted` is the model's own word for a core
that has made no step yet (DESIGN CHOICE, notes/assumptions/3.md). -/
inductive Status where
  | notStarted
  | retired
  | parked
  | faulted (r : FaultRecord)
deriving DecidableEq, Repr

/-- The inputs of one `step(keys, rnd)` transaction (60_exceptions.md R285, R287; R32). -/
structure StepInput where
  /-- `Key[0..15]`: whether each key is pressed. -/
  keys : Vector Bool 16
  /-- `RND`: the byte Cxkk uses. -/
  rnd : Byte
deriving DecidableEq, Repr

/-- The state of the core (R20), with the model's own fields for what the spec makes arguments,
inputs and outputs of the transactions (R285): the configuration, the scheduled step inputs, and
the result of the latest step. -/
structure State where
  /-- `MEM` (R50). -/
  mem : Memory
  /-- `V[0..15]` (R21). -/
  v : Vector Byte 16
  /-- `I` (R23). -/
  i : Word
  /-- `pc` (R24). -/
  pc : Word
  /-- `SP`: the number of return addresses held, 0..16 (R26). -/
  sp : Fin 17
  /-- `STACK[0..15]` (R27). -/
  stack : Vector Word 16
  /-- `DT` (R28). -/
  dt : Byte
  /-- `ST` (R29). -/
  st : Byte
  /-- `Disp[0..31][0..63]` (R30). -/
  disp : Display
  /-- `FAULT` (R34). -/
  fault : Option FaultRecord
  /-- The configuration parameters; no instruction writes them (R7, R35). Model's own field. -/
  cfg : Config
  /-- Inputs the host has scheduled for the coming steps, the next step's first (R285, R286).
  Model's own field: notes/assumptions/2.md. -/
  inputs : List StepInput
  /-- How many steps have run on free inputs: the argument of the next free input. Model's own
  field: notes/assumptions/2.md. -/
  draws : Nat
  /-- The status the latest step returned (R91). Model's own field: notes/assumptions/3.md. -/
  status : Status
  /-- The sound output of the latest step (R91, R277). Model's own field: notes/assumptions/3.md. -/
  sound : Bool
deriving DecidableEq, Repr

/-- `construct(SHIFT_SRC, LDST_INC_I, FONT)`: every piece of state at its value of R38 (R300). -/
def State.construct (c : Config) : State where
  mem := []
  v := Vector.replicate 16 0
  i := 0
  pc := BitVec.ofNat 16 programOrigin
  sp := 0
  stack := Vector.replicate 16 0
  dt := 0
  st := 0
  disp := Display.blank
  fault := none
  cfg := c
  inputs := []
  draws := 0
  status := .notStarted
  sound := false

/-- The configuration of the reset machine: `LDST_INC_I` and `FONT` at the spec's defaults, and
`SHIFT_SRC`, which has none, free (R7, D14, D19, D20; notes/assumptions/4.md). -/
def resetConfig : Config where
  shiftSrc := Config.openShiftSrc
  ldstIncI := true
  font := defaultFont

/-- The machine right after reset: a new construction, before the Loader runs (R38, R39). -/
def State.reset : State := State.construct resetConfig

/-- Reasons a step stops with no next state: none. Every fault of the spec's taxonomy that a step can
raise is recorded in `FAULT` by a NEXT state (R34, R268), and a step of a halted core answers that
record again in a NEXT state (R86), so nothing raises an outcome of this type. Safe: there is no
stop. (notes/assumptions/1.md) -/
inductive Fault where
deriving DecidableEq, Repr

/-- Reasons an instruction has no meaning. -/
inductive Refusal where
  /-- Raised by an arm of `exec` whose instruction has no meaning yet; no arm does. Safe: it stops. -/
  | notModelled (mnemonic : String)
deriving DecidableEq, Repr

end Sys2Proof.Machine
end

