-- ==== Sys2Proof/Machine/Ops.lean ====
section
/-! DEFINITION. The named operations over memory, registers, the call stack, the display, the inputs and the result of a step, and taking a fault (00_scope.md R9; 20_memory.md; 60_exceptions.md R266, R268). -/

namespace Sys2Proof.Machine

/-! ## Memory -/

/-- `MemRead(a, 1)`: the byte at address `a` (R9, R55, R60). -/
def Memory.read : Memory → Nat → Byte
  | [], _ => Memory.unlisted
  | (k, b) :: m, a => if k = a then b else Memory.read m a

/-- `MemWrite(a, 1, b)`: byte `b` at address `a` (R9, R55, R60). Writing the unlisted value takes the
cell out, which keeps the canonical form. -/
def Memory.write : Memory → Nat → Byte → Memory
  | [], a, b => if b = Memory.unlisted then [] else [(a, b)]
  | (k, c) :: m, a, b =>
    if k < a then (k, c) :: Memory.write m a b
    else if k = a then (if b = Memory.unlisted then m else (a, b) :: m)
    else if b = Memory.unlisted then (k, c) :: m
    else (a, b) :: (k, c) :: m

/-- One-byte writes at consecutive ascending addresses from `a` (R55). -/
def Memory.writeBytes (m : Memory) (a : Nat) : List Byte → Memory
  | [] => m
  | b :: bs => Memory.writeBytes (m.write a b) (a + 1) bs

/-- One-byte reads at the `n` consecutive ascending addresses from `a` (R55). -/
def Memory.readBytes (m : Memory) (a : Nat) : Nat → List Byte
  | 0 => []
  | n + 1 => m.read a :: Memory.readBytes m (a + 1) n

/-- `OOR(lo, hi)` of 42_memory_index.md: the address an access of bytes `lo..hi` faults with, the
lowest one of 4096 or more, if it has one (R54, R58, R59). -/
def outOfRange (lo hi : Nat) : Option Nat :=
  if hi ≥ memSize then some (max lo memSize) else none

/-! ## Registers -/

/-- `V[x] <- b` (R9, R21). -/
def State.setV (s : State) (x : Reg) (b : Byte) : State := { s with v := s.v.set x b }

/-- The bytes of V0..Vx, V0 first (R174). -/
def State.regsThrough (s : State) (x : Reg) : List Byte := s.v.toList.take (x.val + 1)

/-- V0..Vx from the bytes at `a`, `a + 1`, ...; the registers above x keep their values (R175). -/
def State.loadRegsFrom (s : State) (a : Nat) (x : Reg) : Vector Byte 16 :=
  Vector.ofFn fun k => if k ≤ x then s.mem.read (a + k.val) else s.v[k]

/-! ## The end of an execute phase (R89) -/

/-- `Retire`: the instruction's effects are done and pc holds the next instruction's address. -/
def State.retire (s : State) (newPc : Word) : State := { s with pc := newPc, status := .retired }

/-- `Retire` with `pc <- p + 2` (R92). -/
def State.retireNext (s : State) : State := s.retire (s.pc + 2)

/-- `Retire` of a conditional skip: `pc <- c ? p + 4 : p + 2` (R89, R92). -/
def State.skipIf (s : State) (c : Bool) : State := s.retire (if c then s.pc + 4 else s.pc + 2)

/-- `Park`: no effect and pc unchanged; the instruction is not yet retired (R89, R222). -/
def State.park (s : State) : State := { s with status := .parked }

/-- `raise E(info)` and `Fail`: taking a fault. `FAULT` records the kind, the pc of the faulting
instruction, the fetched word and the address; the step's status is that record and its sound
output is false; no other state changes (R9, R85, R266, R268). There is no return from a fault
(R271): only construction clears `FAULT` (R269). -/
def State.raise (s : State) (kind : FaultKind) (opcode : Option Word) (addr : Option Nat) : State :=
  { s with
    fault := some { kind := kind, pc := s.pc, opcode := opcode, addr := addr }
    status := .faulted { kind := kind, pc := s.pc, opcode := opcode, addr := addr }
    sound := false }

/-- An instruction's access check: with an out-of-range address it raises `AddressOutOfRange`, else it
goes on to `done` (R54, R59). `op` is the instruction's word. -/
def State.checked (s : State) (op : Word) (bad : Option Nat) (done : State) : State :=
  match bad with
  | some a => s.raise .addressOutOfRange (some op) (some a)
  | none => done

/-- The status and sound output of a step of a halted core: the recorded fault again, and false
(R86). -/
def State.reportFault (s : State) (r : FaultRecord) : State :=
  { s with status := .faulted r, sound := false }

/-! ## The call stack -/

/-- `STACK[SP] <- w; SP <- SP + 1`, for SP below 16 (R27, R102). -/
def State.push (s : State) (w : Word) (room : s.sp.val < 16) : State :=
  { s with stack := s.stack.set s.sp.val w, sp := ⟨s.sp.val + 1, by omega⟩ }

/-- `SP <- SP - 1`; the popped entry keeps its old value (R27, R100). -/
def State.pop (s : State) : State := { s with sp := ⟨s.sp.val - 1, by omega⟩ }

/-- `STACK[SP - 1]`, the entry a return pops, for SP above 0 (R27, R100). -/
def State.top (s : State) (_nonempty : s.sp.val ≠ 0) : Word := s.stack[s.sp.val - 1]'(by omega)

/-! ## The display -/

/-- `Disp[py][px]` (R31). -/
def Display.pixel (d : Display) (px : Fin 64) (py : Fin 32) : Bool := d[py][px]

/-- `Disp[py][px] <- Disp[py][px] ^ 1` (R30, R201). -/
def Display.toggle (d : Display) (px : Fin 64) (py : Fin 32) : Display :=
  d.set py (d[py].set px (!d[py][px]))

/-! ## Inputs and the timer tick -/

/-- The step's inputs: the ones the host scheduled, else free ones (R285, R287, R306). -/
def State.input (s : State) : StepInput :=
  match s.inputs with
  | inp :: _ => inp
  | [] => { keys := Config.freeKeys s.draws, rnd := Config.freeRnd s.draws }

/-- The inputs of a step that did not fault are used up: the next step has its own (R32, R287). -/
def State.nextInput (s : State) : State :=
  match s.inputs with
  | _ :: rest => { s with inputs := rest }
  | [] => { s with draws := s.draws + 1 }

/-- A timer counts down by one and stops at 0 (R90, R275, R276). -/
def countDown (t : Byte) : Byte := if t.toNat > 0 then t - 1 else t

/-- `Tick()`: both timers count down; the sound output is whether ST was nonzero (R90, R277). -/
def State.tick (s : State) : State :=
  { s with dt := countDown s.dt, sound := decide (s.st.toNat > 0), st := countDown s.st }

end Sys2Proof.Machine
end

