-- ==== Sys2Proof/Machine/Cycle.lean ====
section
/-! DEFINITION. The phases of one step around the execute phase: halted check, fetch, decode, timer tick (30_encoding.md R85 to R90). -/

namespace Sys2Proof.Machine

/-- The fetch check: the address the fetch faults with, if `pc + 1 >= 4096` (R87, R264). -/
def State.fetchFault (s : State) : Option Nat :=
  if s.pc.toNat + 1 ≥ memSize then
    some (if s.pc.toNat ≥ memSize then s.pc.toNat else s.pc.toNat + 1)
  else none

/-- `op <- MemRead(pc, 1) || MemRead(pc + 1, 1)` (R56, R85, R87). -/
def State.fetchWord (s : State) : Word :=
  wordOfBytes (s.mem.read s.pc.toNat) (s.mem.read (s.pc.toNat + 1))

/-- After the execute phase: a step that faulted is over; one that retired or parked ticks the timers,
and the step's inputs are used up (R85, R90). -/
def State.afterExecute (t : State) : State :=
  match t.fault with
  | some _ => t
  | none => t.tick.nextInput

/-- One step around the execute phase `run`, in the order of R85: halted check (R86), fetch (R87),
decode (R88), execute (R89), timer tick (R90). -/
def cycle (run : Instr → State → Host.Outcome State Fault Refusal) (s : State) :
    Host.Outcome State Fault Refusal :=
  match s.fault with
  | some r => .next (s.reportFault r)
  | none =>
    match s.fetchFault with
    | some a => .next (s.raise .addressOutOfRange none (some a))
    | none =>
      match decode s.fetchWord with
      | .illegal op => .next (s.raise .invalidOpcode (some op) none)
      | .instr i =>
        match run i s with
        | .next t => .next t.afterExecute
        | .fault f => .fault f
        | .refused r => .refused r

/-- `s` with `word` stored where the next fetch reads, high byte first (R56). Where no fetch can
succeed (pc + 1 >= 4096, R87) nothing is stored. -/
def State.storeAtPc (s : State) (word : Word) : State :=
  match s.fetchFault with
  | some _ => s
  | none => { s with mem := s.mem.writeBytes s.pc.toNat [highByte word, lowByte word] }

end Sys2Proof.Machine
end

