-- ==== Sys2Proof/Machine/Operands.lean ====
section
/-! DEFINITION. The operand forms of the instructions: register operands read before any write (00_scope.md R10), the shift source (41_alu.md R138), and the addresses an instruction computes (20_memory.md R58). -/

namespace Sys2Proof.Machine

/-- `a = V[x]`, the value a register operand has at the start of the instruction (R10, R74). -/
abbrev State.reg (s : State) (x : Reg) : Byte := s.v[x]

/-- The source of 8xy6 and 8xyE: V[x] when `SHIFT_SRC = VX`, V[y] when it is `VY`. With x = y both
settings agree, so the setting is not read (R138, R140; 93_implementation_defined.md item 1). -/
def State.shiftSource (s : State) (x y : Reg) : Byte :=
  if x = y then s.reg x
  else match s.cfg.shiftSrc with
    | .vx => s.reg x
    | .vy => s.reg y

/-- The address of byte `k` of an access through I, as an integer (R58). -/
def State.indexed (s : State) (k : Nat) : Nat := s.i.toNat + k

/-- The access check of the bytes `I .. I + last` (R54, R58, R59). -/
def State.indexedCheck (s : State) (last : Nat) : Option Nat :=
  outOfRange (s.indexed 0) (s.indexed last)

/-- The access check of Dxyn's `n` bytes: none are read when n = 0 (R201). -/
def State.spriteCheck (s : State) (n : Fin 16) : Option Nat :=
  if n.val = 0 then none else s.indexedCheck (n.val - 1)

/-- I after Fx55 and Fx65: `(I + x + 1) mod 65536` under `LDST_INC_I`, else unchanged (R174, R175). -/
def State.indexAfter (s : State) (x : Reg) : Word :=
  if s.cfg.ldstIncI then s.i + BitVec.ofNat 16 (x.val + 1) else s.i

/-- The three decimal digits of a byte: hundreds, tens, ones (R56, R173). -/
def decimalDigits (a : Byte) : List Byte :=
  [BitVec.ofNat 8 (a.toNat / 100), BitVec.ofNat 8 (a.toNat / 10 % 10), BitVec.ofNat 8 (a.toNat % 10)]

/-- The address of the glyph of digit `a`: `0x050 + 5 * a`, unmasked (R172). -/
def glyphAddress (a : Byte) : Word := BitVec.ofNat 16 (fontBase + 5 * a.toNat)

/-- The lowest-numbered pressed key of the step's sample (R222). -/
def State.lowestKey (s : State) : Option (Fin 16) :=
  (List.finRange 16).find? fun k => s.input.keys[k]

end Sys2Proof.Machine
end

