-- ==== Sys2Proof/Machine/Flags.lean ====
section
/-! DEFINITION. The flag computations: carry, no-borrow, and the bit a shift moves out (10_state.md R22; 41_alu.md R136 to R140). The collision flag of Dxyn is computed by its loop (Machine/Display.lean). -/

namespace Sys2Proof.Machine

/-- A flag as VF holds it: 1 or 0. -/
def flagByte (c : Bool) : Byte := if c then 1 else 0

/-- Carry of 8xy4: the unbounded sum exceeds 255 (R136). -/
def carryOut (a b : Byte) : Bool := decide (a.toNat + b.toNat > 255)

/-- No-borrow of 8xy5 and 8xy7: the minuend is strictly greater (R137, R139; 90_conflicts.md C3). -/
def noBorrow (minuend subtrahend : Byte) : Bool := decide (minuend.toNat > subtrahend.toNat)

/-- The bit 8xy6 moves out: bit 0 (R138). -/
def lowBit (c : Byte) : Bool := c.getLsbD 0

/-- The bit 8xyE moves out: bit 7 (R140). -/
def highBit (c : Byte) : Bool := c.getLsbD 7

/-- `V[0xF] <- flag; V[x] <- result; pc <- p + 2`: the flag is written first, so with x = 0xF the
result stays (R10, R136 to R140). -/
def State.retireFlagged (s : State) (x : Reg) (flag : Bool) (result : Byte) : State :=
  ((s.setV vf (flagByte flag)).setV x result).retireNext

end Sys2Proof.Machine
end

