-- ==== Sys2Proof/Machine/Alu.lean ====
section
/-! DEFINITION. Register loads, arithmetic and logic (41_alu.md). -/

namespace Sys2Proof.Machine

/-- 6xkk `LD Vx, kk` (R130). -/
def execLdImm (x : Reg) (kk : Byte) (s : State) : Host.Outcome State Fault Refusal :=
  .next (s.setV x kk).retireNext

/-- 7xkk `ADD Vx, kk`: modulo 256, no flag (R131). -/
def execAddImm (x : Reg) (kk : Byte) (s : State) : Host.Outcome State Fault Refusal :=
  .next (s.setV x (s.reg x + kk)).retireNext

/-- 8xy0 `LD Vx, Vy` (R132). -/
def execLdReg (x y : Reg) (s : State) : Host.Outcome State Fault Refusal :=
  .next (s.setV x (s.reg y)).retireNext

/-- 8xy1 `OR Vx, Vy`; VF is not reset (R133). -/
def execOrReg (x y : Reg) (s : State) : Host.Outcome State Fault Refusal :=
  .next (s.setV x (s.reg x ||| s.reg y)).retireNext

/-- 8xy2 `AND Vx, Vy` (R134). -/
def execAndReg (x y : Reg) (s : State) : Host.Outcome State Fault Refusal :=
  .next (s.setV x (s.reg x &&& s.reg y)).retireNext

/-- 8xy3 `XOR Vx, Vy` (R135). -/
def execXorReg (x y : Reg) (s : State) : Host.Outcome State Fault Refusal :=
  .next (s.setV x (s.reg x ^^^ s.reg y)).retireNext

/-- 8xy4 `ADD Vx, Vy`, carry into VF (R136). -/
def execAddReg (x y : Reg) (s : State) : Host.Outcome State Fault Refusal :=
  .next (s.retireFlagged x (carryOut (s.reg x) (s.reg y)) (s.reg x + s.reg y))

/-- 8xy5 `SUB Vx, Vy`, no-borrow into VF (R137). -/
def execSubReg (x y : Reg) (s : State) : Host.Outcome State Fault Refusal :=
  .next (s.retireFlagged x (noBorrow (s.reg x) (s.reg y)) (s.reg x - s.reg y))

/-- 8xy6 `SHR Vx, Vy`, bit 0 of the source into VF (R138). -/
def execShrReg (x y : Reg) (s : State) : Host.Outcome State Fault Refusal :=
  .next (s.retireFlagged x (lowBit (s.shiftSource x y)) (s.shiftSource x y >>> 1))

/-- 8xy7 `SUBN Vx, Vy`, no-borrow into VF (R139). -/
def execSubnReg (x y : Reg) (s : State) : Host.Outcome State Fault Refusal :=
  .next (s.retireFlagged x (noBorrow (s.reg y) (s.reg x)) (s.reg y - s.reg x))

/-- 8xyE `SHL Vx, Vy`, bit 7 of the source into VF (R140). -/
def execShlReg (x y : Reg) (s : State) : Host.Outcome State Fault Refusal :=
  .next (s.retireFlagged x (highBit (s.shiftSource x y)) (s.shiftSource x y <<< 1))

/-- Cxkk `RND Vx, kk`: the step's random byte, masked (R141, R287). -/
def execRnd (x : Reg) (kk : Byte) (s : State) : Host.Outcome State Fault Refusal :=
  .next (s.setV x (s.input.rnd &&& kk)).retireNext

end Sys2Proof.Machine
end

