-- ==== Sys2Proof/Machine/Control.lean ====
section
/-! DEFINITION. Control flow and the call stack (40_control_flow.md). -/

namespace Sys2Proof.Machine

/-- 00EE `RET` (R100). -/
def execRet (s : State) : Host.Outcome State Fault Refusal :=
  if h : s.sp.val ≠ 0 then .next (s.pop.retire (s.top h))
  else .next (s.raise .stackUnderflow (some (encode .ret)) none)

/-- 1nnn `JP nnn` (R101). -/
def execJp (nnn : Addr) (s : State) : Host.Outcome State Fault Refusal :=
  .next (s.retire (zext16Addr nnn))

/-- 2nnn `CALL nnn` (R102). -/
def execCall (nnn : Addr) (s : State) : Host.Outcome State Fault Refusal :=
  if h : s.sp.val < 16 then .next ((s.push (s.pc + 2) h).retire (zext16Addr nnn))
  else .next (s.raise .stackOverflow (some (encode (.call nnn))) none)

/-- 3xkk `SE Vx, kk` (R103). -/
def execSeImm (x : Reg) (kk : Byte) (s : State) : Host.Outcome State Fault Refusal :=
  .next (s.skipIf (s.reg x == kk))

/-- 4xkk `SNE Vx, kk` (R104). -/
def execSneImm (x : Reg) (kk : Byte) (s : State) : Host.Outcome State Fault Refusal :=
  .next (s.skipIf (s.reg x != kk))

/-- 5xy0 `SE Vx, Vy` (R105). -/
def execSeReg (x y : Reg) (s : State) : Host.Outcome State Fault Refusal :=
  .next (s.skipIf (s.reg x == s.reg y))

/-- 9xy0 `SNE Vx, Vy` (R106). -/
def execSneReg (x y : Reg) (s : State) : Host.Outcome State Fault Refusal :=
  .next (s.skipIf (s.reg x != s.reg y))

/-- Bnnn `JP V0, nnn`: the 16-bit sum, not masked to 12 bits (R107). -/
def execJpV0 (nnn : Addr) (s : State) : Host.Outcome State Fault Refusal :=
  .next (s.retire (zext16Addr nnn + zext16Byte (s.reg 0)))

end Sys2Proof.Machine
end

