-- ==== Sys2Proof/Machine/Display.lean ====
section
/-! DEFINITION. The display instructions (43_display.md). -/

namespace Sys2Proof.Machine

/-- A drawing under way: the display and the collision flag so far. -/
structure Drawing where
  disp : Display
  hit : Bool
deriving DecidableEq, Repr

/-- One set sprite bit: `if Disp[py][px] = 1 then V[0xF] <- 1; Disp[py][px] <- Disp[py][px] ^ 1`
(R201). -/
def Drawing.plot (d : Drawing) (px : Fin 64) (py : Fin 32) : Drawing :=
  { disp := d.disp.toggle px py, hit := d.hit || d.disp.pixel px py }

/-- `(cx + col) mod 64` (R201). -/
def wrapColumn (cx : Byte) (col : Nat) : Fin 64 := Fin.ofNat 64 (cx.toNat + col)

/-- `(cy + row) mod 32` (R201). -/
def wrapRow (cy : Byte) (row : Nat) : Fin 32 := Fin.ofNat 32 (cy.toNat + row)

/-- Whether the sprite byte lights column offset `col` (0..7): bit 7 is column 0 (R202). PRESUMED by
the spec from general knowledge, notes/assumptions/6.md; unsafe. -/
def spriteBit (b : Byte) (col : Nat) : Bool := b.getLsbD (7 - col)

/-- One row: the columns 0 to 7 of sprite byte `b`, at row `py` (R201). -/
def drawRow (cx : Byte) (py : Fin 32) (b : Byte) (d : Drawing) : Drawing :=
  (List.range 8).foldl (fun d col => if spriteBit b col then d.plot (wrapColumn cx col) py else d) d

/-- Rows `row`, `row + 1`, ... of the sprite bytes (R201). -/
def drawRows (cx cy : Byte) : Nat → List Byte → Drawing → Drawing
  | _, [], d => d
  | row, b :: bs, d => drawRows cx cy (row + 1) bs (drawRow cx (wrapRow cy row) b d)

/-- The drawing of the `n` sprite bytes at I, from the flag at 0 (R201). -/
def State.drawSprite (s : State) (x y : Reg) (n : Fin 16) : Drawing :=
  drawRows (s.reg x) (s.reg y) 0 (s.mem.readBytes (s.indexed 0) n.val) { disp := s.disp, hit := false }

/-- 00E0 `CLS` (R200). -/
def execCls (s : State) : Host.Outcome State Fault Refusal :=
  .next { s with disp := Display.blank }.retireNext

/-- Dxyn `DRW Vx, Vy, n`: the coordinates are read before VF is written (R10, R201). -/
def execDrw (x y : Reg) (n : Fin 16) (s : State) : Host.Outcome State Fault Refusal :=
  .next (s.checked (encode (.drw x y n)) (s.spriteCheck n)
    ({ s with disp := (s.drawSprite x y n).disp }.setV vf (flagByte (s.drawSprite x y n).hit)).retireNext)

end Sys2Proof.Machine
end

