-- ==== Sys2Proof/Machine/Index.lean ====
section
/-! DEFINITION. The index register and the memory access instructions (42_memory_index.md). -/

namespace Sys2Proof.Machine

/-- Annn `LD I, nnn` (R170). -/
def execLdI (nnn : Addr) (s : State) : Host.Outcome State Fault Refusal :=
  .next { s with i := zext16Addr nnn }.retireNext

/-- Fx1E `ADD I, Vx`: modulo 2^16, no flag (R171). -/
def execAddI (x : Reg) (s : State) : Host.Outcome State Fault Refusal :=
  .next { s with i := s.i + zext16Byte (s.reg x) }.retireNext

/-- Fx29 `LD F, Vx` (R172). -/
def execLdFont (x : Reg) (s : State) : Host.Outcome State Fault Refusal :=
  .next { s with i := glyphAddress (s.reg x) }.retireNext

/-- Fx33 `LD B, Vx`: hundreds, tens and ones at I, I+1, I+2 (R173). -/
def execLdBcd (x : Reg) (s : State) : Host.Outcome State Fault Refusal :=
  .next (s.checked (encode (.ldBcd x)) (s.indexedCheck 2)
    { s with mem := s.mem.writeBytes (s.indexed 0) (decimalDigits (s.reg x)) }.retireNext)

/-- Fx55 `LD [I], Vx`: V0..Vx at I..I+x, then I advances under `LDST_INC_I` (R174). -/
def execStoreRegs (x : Reg) (s : State) : Host.Outcome State Fault Refusal :=
  .next (s.checked (encode (.storeRegs x)) (s.indexedCheck x.val)
    { s with mem := s.mem.writeBytes (s.indexed 0) (s.regsThrough x), i := s.indexAfter x }.retireNext)

/-- Fx65 `LD Vx, [I]`: V0..Vx from I..I+x, then I advances under `LDST_INC_I` (R175). -/
def execLoadRegs (x : Reg) (s : State) : Host.Outcome State Fault Refusal :=
  .next (s.checked (encode (.loadRegs x)) (s.indexedCheck x.val)
    { s with v := s.loadRegsFrom (s.indexed 0) x, i := s.indexAfter x }.retireNext)

end Sys2Proof.Machine
end

