-- ==== Sys2Proof/Machine/Input.lean ====
section
/-! DEFINITION. The key input instructions (44_input.md). -/

namespace Sys2Proof.Machine

/-- Ex9E `SKP Vx`: a key index of 16 or more is out of range (R220). -/
def execSkp (x : Reg) (s : State) : Host.Outcome State Fault Refusal :=
  if h : (s.reg x).toNat < 16 then .next (s.skipIf s.input.keys[(s.reg x).toNat])
  else .next (s.raise .addressOutOfRange (some (encode (.skp x))) (some (s.reg x).toNat))

/-- ExA1 `SKNP Vx` (R221). -/
def execSknp (x : Reg) (s : State) : Host.Outcome State Fault Refusal :=
  if h : (s.reg x).toNat < 16 then .next (s.skipIf (!s.input.keys[(s.reg x).toNat]))
  else .next (s.raise .addressOutOfRange (some (encode (.sknp x))) (some (s.reg x).toNat))

/-- Fx0A `LD Vx, K`: parks while no key is down, else loads the lowest pressed key's index (R222,
R223). -/
def execLdVxKey (x : Reg) (s : State) : Host.Outcome State Fault Refusal :=
  .next (match s.lowestKey with
    | some k => (s.setV x (BitVec.ofNat 8 k.val)).retireNext
    | none => s.park)

end Sys2Proof.Machine
end

