-- ==== Sys2Proof/Machine/Timer.lean ====
section
/-! DEFINITION. The timer instructions (45_timers.md). Each runs before the tick of its own step (R311). -/

namespace Sys2Proof.Machine

/-- Fx07 `LD Vx, DT` (R240). -/
def execLdVxDt (x : Reg) (s : State) : Host.Outcome State Fault Refusal :=
  .next (s.setV x s.dt).retireNext

/-- Fx15 `LD DT, Vx` (R241). -/
def execLdDtVx (x : Reg) (s : State) : Host.Outcome State Fault Refusal :=
  .next { s with dt := s.reg x }.retireNext

/-- Fx18 `LD ST, Vx` (R242). -/
def execLdStVx (x : Reg) (s : State) : Host.Outcome State Fault Refusal :=
  .next { s with st := s.reg x }.retireNext

end Sys2Proof.Machine
end

