-- ==== Sys2Proof/Machine/Step.lean ====
section
/-! DEFINITION. `step()`: one step of the core (30_encoding.md R85), and placing a word where the next step fetches it. -/

namespace Sys2Proof.Machine

/-- One `step()` (R85). -/
def step (s : State) : Host.Outcome State Fault Refusal := cycle exec s

/-- `s` with the table-numbered instruction word stored where `step` fetches its next instruction. -/
def State.withFetchWord (s : State) (nbits w : Nat) : State := s.storeAtPc (tableWord nbits w)

end Sys2Proof.Machine
end

