-- ==== Sys2Proof/Machine/HostInterface.lean ====
section
/-! DEFINITION. The host's transactions on a running core: `step(keys, rnd)`, scheduling inputs, and reading the display (60_exceptions.md R285, R286). -/

namespace Sys2Proof.Machine

/-- `step(keys, rnd)`: one step whose inputs are the given ones (R285). -/
def stepWith (inp : StepInput) (s : State) : Host.Outcome State Fault Refusal :=
  step { s with inputs := [inp] }

/-- The host schedules the inputs of one more coming step (R285, R286). -/
def State.schedule (s : State) (inp : StepInput) : State := { s with inputs := s.inputs ++ [inp] }

/-- A key array given as bytes: a key is pressed when its byte is nonzero (R32). -/
def keysOfBytes (bytes : Vector Byte 16) : Vector Bool 16 := Vector.ofFn fun k => bytes[k] != 0

/-- Reading the display: 2048 elements, row-major, each 0 or 1 (R30, R31, R285). -/
def State.displayBuffer (s : State) : List Byte :=
  s.disp.toList.flatMap fun row => row.toList.map fun p => if p then 1 else 0

end Sys2Proof.Machine
end

