-- ==== Sys2Proof/Machine/Loader.lean ====
section
/-! DEFINITION. The Loader and the boot order (70_reset_and_hazards.md R301 to R305; 60_exceptions.md R265, R285). -/

namespace Sys2Proof.Machine

/-- What `loadProgram` returns (R265, R302). `romTooLarge` is never recorded in `FAULT`. -/
inductive LoadResult where
  | ok
  | romTooLarge
deriving DecidableEq, Repr

/-- `loadFontset()`: `MEM[0x050 + i] <- FONT[i]` for i = 0 to 79 (R301). -/
def loadFontset (s : State) : State :=
  { s with mem := s.mem.writeBytes fontBase s.cfg.font.toList }

/-- `loadProgram(bytes)`: the bytes from 0x200 up, or `RomTooLarge` with nothing written (R302, R303). -/
def loadProgram (bytes : List Byte) (s : State) : LoadResult × State :=
  if romFits bytes then (.ok, { s with mem := s.mem.writeBytes programOrigin bytes })
  else (.romTooLarge, s)

/-- The boot order up to the first step: construct, `loadFontset`, `loadProgram` (R305). -/
def boot (c : Config) (rom : List Byte) : LoadResult × State :=
  loadProgram rom (loadFontset (State.construct c))

end Sys2Proof.Machine
end

