-- ==== Sys2Proof/Safety.lean ====
section
/-! DEFINITION. The terms the claims use: the parts of the state and what a step leaves unchanged, the invariant, the fault the rules give a step, the next pc of the rules' table, and the pixels a sprite lights. -/

namespace Sys2Proof.Machine

/-! ## Frames -/

/-- The parts of the state, each register, stack entry, byte of memory and pixel one by one (R20). -/
inductive Part where
  | v (x : Reg)
  | i
  | pc
  | sp
  | stack (k : Fin 16)
  | dt
  | st
  | mem (a : Nat)
  | pixel (px : Fin 64) (py : Fin 32)
  | fault
  | cfg
  | inputs
  | draws
  | status
  | sound
deriving DecidableEq, Repr

/-- The part holds the same in `s` and `t`; a byte of memory is compared by reading it. -/
def Part.same (s t : State) : Part → Prop
  | .v x => t.v[x] = s.v[x]
  | .i => t.i = s.i
  | .pc => t.pc = s.pc
  | .sp => t.sp = s.sp
  | .stack k => t.stack[k] = s.stack[k]
  | .dt => t.dt = s.dt
  | .st => t.st = s.st
  | .mem a => t.mem.read a = s.mem.read a
  | .pixel px py => t.disp.pixel px py = s.disp.pixel px py
  | .fault => t.fault = s.fault
  | .cfg => t.cfg = s.cfg
  | .inputs => t.inputs = s.inputs
  | .draws => t.draws = s.draws
  | .status => t.status = s.status
  | .sound => t.sound = s.sound

/-- Every part outside `changed` is the same in `s` and `t`. -/
def OnlyChanges (s t : State) (changed : Part → Prop) : Prop := ∀ p : Part, ¬ changed p → p.same s t

/-- What a faulting instruction changes (R268): the fault register and the step's result. -/
def faultParts : List Part := [.fault, .status, .sound]

/-! ## The invariant -/

/-- What holds of every state the core reaches: memory in canonical form; pc at most 0x10FE and every
return address at most 0x1000 (R25); the recorded fault is the status the latest step returned, its
pc is the pc, and the sound output is then false (R268). -/
structure State.Inv (s : State) : Prop where
  mem_wf : s.mem.wf = true
  pc_le : s.pc.toNat ≤ 0x10FE
  stack_le : ∀ k : Fin 16, s.stack[k].toNat ≤ 0x1000
  faulted : ∀ r, s.fault = some r → s.status = .faulted r ∧ s.sound = false ∧ r.pc = s.pc
  not_faulted : s.fault = none → ∀ r, s.status ≠ .faulted r

/-! ## The fetched word -/

/-- The word at pc, by its bytes (R87). -/
def State.wordAtPc (s : State) : Word :=
  BitVec.ofNat 16 ((s.mem.read s.pc.toNat).toNat * 256 + (s.mem.read (s.pc.toNat + 1)).toNat)

/-- The step is not halted, its fetch is in range, and its word decodes to `i` (R85 to R88). -/
def State.Runs (s : State) (i : Instr) : Prop :=
  s.fault = none ∧ s.pc.toNat + 1 < 4096 ∧ decode s.wordAtPc = .instr i

/-- The next step of a core that is not halted faults in its fetch, and no state but the fault register
and the step's result changes (R87, R268). -/
def State.NextFetchFails (s : State) : Prop :=
  s.fault = none ∧ ∃ t r, step s = .next t ∧ t.fault = some r ∧ r.kind = .addressOutOfRange ∧
    r.opcode = none ∧ OnlyChanges s t (· ∈ faultParts)

/-! ## The faults of the rules (R261 to R267) -/

/-- The access through I of bytes `I .. I + last` as R264 and R266 record it when it is out of range. -/
def expectedDataFault (s : State) (op : Word) (last : Nat) : Option FaultRecord :=
  if s.i.toNat + last ≥ 4096 then
    some { kind := .addressOutOfRange, pc := s.pc, opcode := some op, addr := some (max s.i.toNat 4096) }
  else none

/-- The key index of Ex9E and ExA1 as R264 and R266 record it when it is out of range. -/
def expectedKeyFault (s : State) (op : Word) (x : Reg) : Option FaultRecord :=
  if s.v[x].toNat ≥ 16 then
    some { kind := .addressOutOfRange, pc := s.pc, opcode := some op, addr := some s.v[x].toNat }
  else none

/-- The execute-phase check of an instruction whose word is `op` (R262 to R264, R266, R267). -/
def expectedExecFault (s : State) (op : Word) : Instr → Option FaultRecord
  | .ret =>
    if s.sp.val = 0 then some { kind := .stackUnderflow, pc := s.pc, opcode := some op, addr := none }
    else none
  | .call _ =>
    if s.sp.val = 16 then some { kind := .stackOverflow, pc := s.pc, opcode := some op, addr := none }
    else none
  | .drw _ _ n => if n.val = 0 then none else expectedDataFault s op (n.val - 1)
  | .ldBcd _ => expectedDataFault s op 2
  | .storeRegs x => expectedDataFault s op x.val
  | .loadRegs x => expectedDataFault s op x.val
  | .skp x => expectedKeyFault s op x
  | .sknp x => expectedKeyFault s op x
  | _ => none

/-- The fault of a step of a core that is not halted, by the order of checks of R267: fetch range,
decode, the instruction's own check. -/
def expectedFault (s : State) : Option FaultRecord :=
  if s.pc.toNat + 1 ≥ 4096 then
    some { kind := .addressOutOfRange, pc := s.pc, opcode := none,
           addr := some (if s.pc.toNat ≥ 4096 then s.pc.toNat else s.pc.toNat + 1) }
  else match decode s.wordAtPc with
    | .illegal op => some { kind := .invalidOpcode, pc := s.pc, opcode := some op, addr := none }
    | .instr i => expectedExecFault s s.wordAtPc i

/-! ## The next pc of the rules' table (R92) -/

/-- R92's table for an instruction at `p` that does not fault, as an integer. `down` says whether a key
is down. -/
def tablePc (s : State) (p : Nat) : Instr → Nat
  | .seImm x kk => if s.v[x] = kk then p + 4 else p + 2
  | .sneImm x kk => if s.v[x] ≠ kk then p + 4 else p + 2
  | .seReg x y => if s.v[x] = s.v[y] then p + 4 else p + 2
  | .sneReg x y => if s.v[x] ≠ s.v[y] then p + 4 else p + 2
  | .skp x => if s.input.keys.toList[s.v[x].toNat]? = some true then p + 4 else p + 2
  | .sknp x => if s.input.keys.toList[s.v[x].toNat]? = some false then p + 4 else p + 2
  | .jp nnn => nnn.toNat
  | .call nnn => nnn.toNat
  | .jpV0 nnn => nnn.toNat + s.v[0].toNat
  | .ret => (s.stack.toList[s.sp.val - 1]?.map BitVec.toNat).getD p
  | .ldVxKey _ => if ∃ k : Fin 16, s.input.keys[k] = true then p + 2 else p
  | _ => p + 2

/-! ## The pixels of a sprite (R201, R202) -/

/-- Dxyn's sprite lights pixel (px, py): for some row below n and some column below 8 whose bit, counted
from bit 7, is set in the row's byte, that pixel is at ((V[x] + col) mod 64, (V[y] + row) mod 32). -/
def State.SpriteLights (s : State) (x y : Reg) (n : Fin 16) (px : Fin 64) (py : Fin 32) : Prop :=
  ∃ row col : Nat, row < n.val ∧ col < 8 ∧
    (s.mem.read (s.i.toNat + row)).toNat / 2 ^ (7 - col) % 2 = 1 ∧
    px.val = (s.v[x].toNat + col) % 64 ∧ py.val = (s.v[y].toNat + row) % 32

end Sys2Proof.Machine
end

