-- ==== Sys2Proof/Certificates/Slice0/Obligations.lean ====
section
/-! DEFINITION. The statements about the model, for the provers. Each docstring says which rule of spec/ it formalises, and names the decision (D<n> of 92_eei_decisions.md) or the log entry a clause rests on where it is not the source's own. -/

open Sys2Proof Sys2Proof.Machine

/-! ## Encoding -/

/-- Words written out from the formats of 30_encoding.md, at least one per family, decode to the
instruction they stand for, and near misses are illegal. -/
def Obligations.DecodesWordsOfTheEncodings : Prop :=
  decode 0x00E0#16 = .instr .cls ∧ decode 0x00EE#16 = .instr .ret ∧
  decode 0x1204#16 = .instr (.jp 0x204) ∧ decode 0x2ABC#16 = .instr (.call 0xABC) ∧
  decode 0x3342#16 = .instr (.seImm 3 0x42) ∧ decode 0x4001#16 = .instr (.sneImm 0 0x01) ∧
  decode 0x5120#16 = .instr (.seReg 1 2) ∧ decode 0x6A2F#16 = .instr (.ldImm 0xA 0x2F) ∧
  decode 0x71FE#16 = .instr (.addImm 1 0xFE) ∧ decode 0x8127#16 = .instr (.subnReg 1 2) ∧
  decode 0x812E#16 = .instr (.shlReg 1 2) ∧ decode 0x9120#16 = .instr (.sneReg 1 2) ∧
  decode 0xA123#16 = .instr (.ldI 0x123) ∧ decode 0xBFFF#16 = .instr (.jpV0 0xFFF) ∧
  decode 0xC30F#16 = .instr (.rnd 3 0x0F) ∧ decode 0xD125#16 = .instr (.drw 1 2 5) ∧
  decode 0xE29E#16 = .instr (.skp 2) ∧ decode 0xF40A#16 = .instr (.ldVxKey 4) ∧
  decode 0xFF55#16 = .instr (.storeRegs 0xF) ∧
  decode 0x0000#16 = .illegal 0x0000 ∧ decode 0x01E0#16 = .illegal 0x01E0 ∧
  decode 0x5121#16 = .illegal 0x5121 ∧ decode 0x8008#16 = .illegal 0x8008 ∧
  decode 0xE09F#16 = .illegal 0xE09F ∧ decode 0xF0FF#16 = .illegal 0xF0FF

/-- Encoding an instruction and decoding the word gives the instruction back, with every operand. -/
def Obligations.DecodeOfEncodeIsTheInstruction : Prop :=
  ∀ i : Instr, decode (encode i) = .instr i

/-- A legal word is the encoding of the instruction it decodes to: no bit of it is dropped (R79). -/
def Obligations.EncodeOfDecodeIsTheWord : Prop :=
  ∀ (w : Word) (i : Instr), decode w = .instr i → encode i = w

/-- R76: exactly the words in which every digit of a pattern matches are legal; every other word is
illegal. -/
def Obligations.LegalWordsMatchEveryPatternDigit : Prop :=
  ∀ w : Word,
    ((∃ i, decode w = .instr i) ↔
      (w.toNat / 4096 = 0x0 → w.toNat = 0x00E0 ∨ w.toNat = 0x00EE) ∧
      (w.toNat / 4096 = 0x5 ∨ w.toNat / 4096 = 0x9 → w.toNat % 16 = 0) ∧
      (w.toNat / 4096 = 0x8 → w.toNat % 16 ≤ 7 ∨ w.toNat % 16 = 0xE) ∧
      (w.toNat / 4096 = 0xE → w.toNat % 256 ∈ [0x9E, 0xA1]) ∧
      (w.toNat / 4096 = 0xF →
        w.toNat % 256 ∈ [0x07, 0x0A, 0x15, 0x18, 0x1E, 0x29, 0x33, 0x55, 0x65])) ∧
    ((¬ ∃ i, decode w = .instr i) ↔ decode w = .illegal w)

/-! ## The step -/

/-- 30_encoding.md R85, R89, R90: a step that is not halted, whose fetch is in range and whose word
decodes to `i`, is `exec i`; if that did not fault, both timers then count down by one while nonzero
(decision D3: also when it parked), the sound output is whether ST was nonzero (D4), and the step's
inputs are used up (notes/assumptions/2.md). -/
def Obligations.StepRunsTheDecodedInstruction : Prop :=
  ∀ (s t : State) (i : Instr), s.Runs i → exec i s = .next t →
    ∃ u, step s = .next u ∧
      (t.fault ≠ none → u = t) ∧
      (t.fault = none →
        u.dt.toNat = t.dt.toNat - 1 ∧ u.st.toNat = t.st.toNat - 1 ∧
        (u.sound = true ↔ t.st.toNat ≠ 0) ∧
        OnlyChanges t u (· ∈ [.dt, .st, .sound, .inputs, .draws]) ∧
        (∀ inp rest, t.inputs = inp :: rest → u.inputs = rest ∧ u.draws = t.draws) ∧
        (t.inputs = [] → u.inputs = [] ∧ u.draws = t.draws + 1))

/-- 30_encoding.md R87, R88: the fetch combines the bytes at pc and pc+1 big-endian and leaves pc alone; it
fails with `AddressOutOfRange` if pc+1 >= 4096; an illegal word raises `InvalidOpcode` with the word
recorded, and the step ends there. That a fetch fault records no opcode (60_exceptions.md R266: the
spec's own decision D24) and that nothing else changes (R268: D10; notes/assumptions/11.md) are the
spec's choices. -/
def Obligations.FetchCombinesTwoBytesBigEndian : Prop :=
  ∀ s : State, s.fault = none →
    (s.pc.toNat + 1 ≥ 4096 → s.NextFetchFails) ∧
    (s.pc.toNat + 1 < 4096 → ∀ op : Word,
      op.toNat = (s.mem.read s.pc.toNat).toNat * 256 + (s.mem.read (s.pc.toNat + 1)).toNat →
      (∀ i t, decode op = .instr i → exec i s = .next t → step s = .next t.afterExecute) ∧
      (∀ w, decode op = .illegal w →
        ∃ t r, step s = .next t ∧ t.fault = some r ∧ r.kind = .invalidOpcode ∧
          r.opcode = some op ∧ OnlyChanges s t (· ∈ faultParts)))

/-- 30_encoding.md R86, 60_exceptions.md R269 (the spec's own decision D9): however many steps are
made of a halted core, each answers the recorded fault again, with the sound output false, and no
state changes. -/
def Obligations.HaltedCoreRepeatsItsFault : Prop :=
  ∀ (n : Nat) (s : State) (r : FaultRecord), s.fault = some r →
    ∃ t, Sys2Proof.core.run n s = .next t ∧
      OnlyChanges s t (· ∈ [.status, .sound]) ∧
      (n ≠ 0 → t.status = .faulted r ∧ t.sound = false)

/-- 60_exceptions.md R268 (the spec's own decision D10): a step that faults changes nothing but
`FAULT` and the step's result, and records the pc of the faulting instruction. -/
def Obligations.FaultingStepChangesOnlyTheFault : Prop :=
  ∀ (s t : State) (r : FaultRecord), s.fault = none → step s = .next t → t.fault = some r →
    t = { s with fault := some r, status := .faulted r, sound := false } ∧ r.pc = s.pc

/-- 60_exceptions.md R260 to R267: a step of a core that is not halted always answers a next state (the
model's choice: notes/assumptions/1.md), and that state's fault register holds exactly the record
the order of checks gives, or none. The data-access condition, the key-index condition, the Dxy0
that cannot fault and the record's fields are the spec's own decisions D5, D7, D16 and D24
(notes/assumptions/11.md). -/
def Obligations.StepFaultsExactlyAsTheRulesSay : Prop :=
  ∀ s : State, s.fault = none → ∃ t, step s = .next t ∧ t.fault = expectedFault s

/-- 60_exceptions.md R275: DT is 0 at reset; Fx15 writes it and Fx07 reads it; each step that does not
fault (a parked one too: the spec's own decision D3) decrements it once while it is nonzero, after the
instruction, and it stops at 0. -/
def Obligations.DelayTimerCountsSteps : Prop :=
  State.reset.dt = 0 ∧
  ∀ (s t : State) (i : Instr), s.Runs i → step s = .next t → t.fault = none →
    (∀ x, i = .ldDtVx x → t.dt.toNat = s.v[x].toNat - 1) ∧
    (∀ x, i = .ldVxDt x → t.v[x] = s.dt) ∧
    ((∀ x, i ≠ .ldDtVx x) → t.dt.toNat = s.dt.toNat - 1)

/-- 60_exceptions.md R276: ST is 0 at reset; Fx18 writes it and no instruction reads it: with another ST
every instruction does the same, and only Fx18 makes the ST it leaves independent of it. It decrements
like DT (on a parked step too: the spec's own decision D3) and stops at 0. -/
def Obligations.SoundTimerIsReadByNoInstruction : Prop :=
  State.reset.st = 0 ∧
  (∀ (s t : State) (i : Instr), s.Runs i → step s = .next t → t.fault = none →
    (∀ x, i = .ldStVx x → t.st.toNat = s.v[x].toNat - 1) ∧
    ((∀ x, i ≠ .ldStVx x) → t.st.toNat = s.st.toNat - 1)) ∧
  (∀ (s t : State) (i : Instr) (b : Byte), exec i s = .next t →
    ((∀ x, i ≠ .ldStVx x) → exec i { s with st := b } = .next { t with st := b }) ∧
    (∀ x, i = .ldStVx x → exec i { s with st := b } = .next t))

/-- 60_exceptions.md R277 (the spec's own decision D4): the sound output of a step, as the model keeps it
(notes/assumptions/3.md), is whether ST was nonzero when the tick ran; of a faulting or halted step it is
false. -/
def Obligations.SoundOutputIsStNonzeroAtTheTick : Prop :=
  ∀ s t : State, step s = .next t →
    (t.fault ≠ none → t.sound = false) ∧
    (∀ i e, s.Runs i → exec i s = .next e → e.fault = none →
      (t.sound = true ↔ e.st.toNat > 0) ∧ (t.sound = true ↔ t.st ≠ e.st))

/-- 30_encoding.md R91 (the spec's own decision D1; where the model keeps the status:
notes/assumptions/3.md, and its inputs: 2.md): the status a step returns is the fault on a
faulting or halted step, `parked` when it ran Fx0A with no key down, and `retired` otherwise. -/
def Obligations.StepStatusIsRetiredParkedOrFaulted : Prop :=
  ∀ s t : State, step s = .next t →
    (∀ r, t.fault = some r → t.status = .faulted r) ∧
    (t.fault = none →
      ((∃ x, s.Runs (.ldVxKey x)) ∧ (∀ k : Fin 16, s.input.keys[k] = false) → t.status = .parked) ∧
      (¬ ((∃ x, s.Runs (.ldVxKey x)) ∧ ∀ k : Fin 16, s.input.keys[k] = false) → t.status = .retired))

/-! ## The invariant -/

/-- The invariant holds after any construction, so of the machine right after reset (10_state.md R38). Its
clause on memory rests on the model's form of `MEM` (notes/assumptions/8.md), its clauses on the
status and the sound output on where the model keeps them (notes/assumptions/3.md). -/
def Obligations.InvariantHoldsAfterConstruction : Prop :=
  (∀ c : Config, (State.construct c).Inv) ∧ State.reset.Inv

/-- The Loader keeps the invariant, from every state that meets it and whatever the ROM, so it holds of the
core as the host first steps it, whatever the configuration (70_reset_and_hazards.md R301, R302, R305; the
invariant's form: notes/assumptions/3.md and 8.md; a Loader call later than the spec allows one:
notes/assumptions/12.md). -/
def Obligations.InvariantHoldsAfterBoot : Prop :=
  (∀ s : State, s.Inv → (loadFontset s).Inv ∧ ∀ rom : List Byte, (loadProgram rom s).2.Inv) ∧
  ∀ (c : Config) (rom : List Byte), (boot c rom).2.Inv

/-- From every state that meets the invariant a step answers a state that meets it: memory in canonical
form (notes/assumptions/8.md), pc at most 0x10FE, return addresses at most 0x1000 (10_state.md R25), and a recorded fault is
the status returned, with the fault's pc the pc (60_exceptions.md R268: the spec's own decision D10; the
status as the model keeps it: notes/assumptions/3.md). -/
def Obligations.StepKeepsTheInvariant : Prop :=
  ∀ s t : State, s.Inv → step s = .next t → t.Inv

/-! ## Frames (00_scope.md R11; the spec's own decision D26) -/

/-- Frame of the control flow and key skip instructions: pc and the step's status, with SP and one stack
entry for CALL and SP for RET; a faulting one changes only the fault register and the result (the spec's
own decision D10), and a key index of 16 or more faults (D7; notes/assumptions/11.md). -/
def Obligations.ControlFlowInstructionsWriteOnlyTheirState : Prop :=
  ∀ (s t : State) (nnn : Addr) (x y : Reg) (kk : Byte),
    (exec (.jp nnn) s = .next t → OnlyChanges s t (· ∈ [.pc, .status])) ∧
    (exec (.jpV0 nnn) s = .next t → OnlyChanges s t (· ∈ [.pc, .status])) ∧
    (exec (.seImm x kk) s = .next t → OnlyChanges s t (· ∈ [.pc, .status])) ∧
    (exec (.sneImm x kk) s = .next t → OnlyChanges s t (· ∈ [.pc, .status])) ∧
    (exec (.seReg x y) s = .next t → OnlyChanges s t (· ∈ [.pc, .status])) ∧
    (exec (.sneReg x y) s = .next t → OnlyChanges s t (· ∈ [.pc, .status])) ∧
    (exec (.skp x) s = .next t →
      OnlyChanges s t (· ∈ if s.v[x].toNat < 16 then [.pc, .status] else faultParts)) ∧
    (exec (.sknp x) s = .next t →
      OnlyChanges s t (· ∈ if s.v[x].toNat < 16 then [.pc, .status] else faultParts)) ∧
    (exec .ret s = .next t →
      OnlyChanges s t (· ∈ if s.sp.val ≠ 0 then [.sp, .pc, .status] else faultParts)) ∧
    (exec (.call nnn) s = .next t → s.sp.val < 16 →
      OnlyChanges s t fun p => p ∈ [.sp, .pc, .status] ∨ ∃ k : Fin 16, k.val = s.sp.val ∧ p = .stack k) ∧
    (exec (.call nnn) s = .next t → s.sp.val = 16 → OnlyChanges s t (· ∈ faultParts))

/-- Frame of the instructions that write registers only: the destination (and VF where the rule names
it), pc and the step's status. No byte of memory changes. -/
def Obligations.RegisterInstructionsWriteOnlyTheirState : Prop :=
  ∀ (s t : State) (nnn : Addr) (x y : Reg) (kk : Byte),
    (∀ i ∈ [Instr.ldImm x kk, .addImm x kk, .ldReg x y, .orReg x y, .andReg x y, .xorReg x y, .rnd x kk,
        .ldVxDt x, .ldVxKey x],
      exec i s = .next t → OnlyChanges s t (· ∈ [.v x, .pc, .status])) ∧
    (∀ i ∈ [Instr.addReg x y, .subReg x y, .shrReg x y, .subnReg x y, .shlReg x y],
      exec i s = .next t → OnlyChanges s t (· ∈ [.v x, .v vf, .pc, .status])) ∧
    (∀ i ∈ [Instr.ldI nnn, .addI x, .ldFont x],
      exec i s = .next t → OnlyChanges s t (· ∈ [.i, .pc, .status])) ∧
    (exec (.ldDtVx x) s = .next t → OnlyChanges s t (· ∈ [.dt, .pc, .status])) ∧
    (exec (.ldStVx x) s = .next t → OnlyChanges s t (· ∈ [.st, .pc, .status]))

/-- Frame of Fx33, Fx55 and Fx65: every byte outside the stored ones reads as before, Fx65 stores
nothing and writes V0..Vx, and I changes only by the increment of Fx55 and Fx65 under `LDST_INC_I`. An
access out of range (the spec's own decision D5) changes only the fault register and the result (D10;
notes/assumptions/11.md). -/
def Obligations.MemoryInstructionsWriteOnlyTheirState : Prop :=
  ∀ (s t : State) (x : Reg),
    (exec (.ldBcd x) s = .next t →
      (s.i.toNat + 2 < 4096 → OnlyChanges s t fun p =>
        p ∈ [.pc, .status] ∨ ∃ k, k < 3 ∧ p = .mem (s.indexed k)) ∧
      (s.i.toNat + 2 ≥ 4096 → OnlyChanges s t (· ∈ faultParts))) ∧
    (exec (.storeRegs x) s = .next t →
      (s.i.toNat + x.val < 4096 → OnlyChanges s t fun p =>
        p ∈ [.pc, .status] ∨ (∃ k, k ≤ x.val ∧ p = .mem (s.indexed k)) ∨
          (s.cfg.ldstIncI = true ∧ p = .i)) ∧
      (s.i.toNat + x.val ≥ 4096 → OnlyChanges s t (· ∈ faultParts))) ∧
    (exec (.loadRegs x) s = .next t →
      (s.i.toNat + x.val < 4096 → OnlyChanges s t fun p =>
        p ∈ [.pc, .status] ∨ (∃ k ≤ x, p = .v k) ∨ (s.cfg.ldstIncI = true ∧ p = .i)) ∧
      (s.i.toNat + x.val ≥ 4096 → OnlyChanges s t (· ∈ faultParts)))

/-- Frame of 00E0 and Dxyn: pixels, pc and the step's status, and VF for Dxyn. No byte of memory changes. The
range of Dxyn and its fault's frame are the spec's own decisions D5 and D10, n = 0 is D16
(notes/assumptions/11.md), and the sprite's bit order is D13 (notes/assumptions/6.md). -/
def Obligations.DisplayInstructionsWriteOnlyTheirState : Prop :=
  ∀ (s t : State) (x y : Reg) (n : Fin 16),
    (exec .cls s = .next t → OnlyChanges s t fun p => p ∈ [.pc, .status] ∨ ∃ px py, p = .pixel px py) ∧
    (exec (.drw x y n) s = .next t →
      (n.val = 0 ∨ s.i.toNat + n.val ≤ 4096 → OnlyChanges s t fun p =>
        p ∈ [.v vf, .pc, .status] ∨ ∃ px py, s.SpriteLights x y n px py ∧ p = .pixel px py) ∧
      (n.val ≠ 0 → s.i.toNat + n.val > 4096 → OnlyChanges s t (· ∈ faultParts)))

/-! ## Whole-machine rules -/

/-- R26: SP holds 0 to 16; a call with SP = 16 and a return with SP = 0 are fatal; only 2nnn (increment)
and 00EE (decrement) change SP. -/
def Obligations.OnlyCallAndReturnChangeSp : Prop :=
  ∀ (s t : State) (i : Instr), exec i s = .next t →
    t.sp.val ≤ 16 ∧
    ((∃ nnn, i = .call nnn) → s.sp.val = 16 → t.fault ≠ none ∧ t.sp = s.sp) ∧
    (i = .ret → s.sp.val = 0 → t.fault ≠ none ∧ t.sp = s.sp) ∧
    (t.sp ≠ s.sp →
      ((∃ nnn, i = .call nnn) ∧ t.sp.val = s.sp.val + 1) ∨ (i = .ret ∧ s.sp.val = t.sp.val + 1))

/-- 10_state.md R30, 43_display.md R204: only Dxyn reads the display. With another display every other
instruction does the same and leaves that display, except that 00E0 clears it. -/
def Obligations.OnlyDrawReadsTheDisplay : Prop :=
  ∀ (s t : State) (i : Instr) (d : Display), exec i s = .next t → (∀ x y n, i ≠ .drw x y n) →
    exec i { s with disp := d } = .next { t with disp := if i = .cls then Display.blank else d }

/-- R33: the key input is read-only to the core and is read by Ex9E, ExA1 and Fx0A only: with another
key sample every other instruction does the same, and none writes the inputs. The sample of a step is
what the host supplies, at construction too. -/
def Obligations.OnlyKeyInstructionsReadTheKeys : Prop :=
  (∀ (s t : State) (i : Instr) (keys keys' : Vector Bool 16) (r : Byte) (rest : List StepInput),
    s.inputs = { keys := keys, rnd := r } :: rest → exec i s = .next t →
      t.inputs = s.inputs ∧
      ((∀ x, i ≠ .skp x) → (∀ x, i ≠ .sknp x) → (∀ x, i ≠ .ldVxKey x) →
        exec i { s with inputs := { keys := keys', rnd := r } :: rest } =
          .next { t with inputs := { keys := keys', rnd := r } :: rest })) ∧
  (∀ (c : Config) (inp : StepInput),
    State.input { State.construct c with inputs := [inp] } = inp)

/-- R92: the table of the pc after the execute phase, for all 34 instructions. An instruction that faults
leaves pc unchanged. -/
def Obligations.NextPcFollowsTheTable : Prop :=
  ∀ (i : Instr) (s : State), s.fault = none →
    ∃ t, exec i s = .next t ∧
      (t.fault = none → t.pc = BitVec.ofNat 16 (tablePc s s.pc.toNat i)) ∧
      (t.fault ≠ none → t.pc = s.pc)

/-! ## Control flow -/

/-- 40_control_flow.md R100: `RET`; a popped address of 4095 or more is accepted and the next fetch faults; that
it records no opcode (60_exceptions.md R266: D24) and changes nothing else (R268: D10) is the spec's own
choice (notes/assumptions/11.md). -/
def Obligations.ReturnPopsTheCallStack : Prop :=
  decode 0x00EE#16 = .instr .ret ∧
  ∀ s : State,
    (∀ k : Fin 16, s.sp.val = k.val + 1 →
      ∃ t, exec .ret s = .next t ∧ t.sp.val = k.val ∧ t.pc = s.stack[k] ∧ t.stack = s.stack ∧
        t.v = s.v ∧ t.status = .retired ∧
        (s.fault = none → s.stack[k].toNat ≥ 4095 → t.NextFetchFails)) ∧
    (s.sp.val = 0 →
      ∃ t r, exec .ret s = .next t ∧ t.fault = some r ∧ r.kind = .stackUnderflow ∧
        OnlyChanges s t (· ∈ faultParts))

/-- 40_control_flow.md R101: `JP nnn`; with nnn >= 0xFFF the next fetch raises `AddressOutOfRange`; that
it records no opcode (60_exceptions.md R266: D24) and changes nothing else (R268: D10) is the spec's own
choice (notes/assumptions/11.md). -/
def Obligations.JumpGoesToItsAddress : Prop :=
  ∀ (nnn : Addr) (s : State),
    decode (BitVec.ofNat 16 (0x1000 + nnn.toNat)) = .instr (.jp nnn) ∧
    ∃ t, exec (.jp nnn) s = .next t ∧ t.pc.toNat = nnn.toNat ∧ t.v = s.v ∧ t.status = .retired ∧
      (s.fault = none → nnn.toNat ≥ 0xFFF → t.NextFetchFails)

/-- R102: `CALL nnn` pushes p + 2; with SP = 16 it raises `StackOverflow` and nothing changes. -/
def Obligations.CallPushesTheReturnAddress : Prop :=
  ∀ (nnn : Addr) (s : State),
    decode (BitVec.ofNat 16 (0x2000 + nnn.toNat)) = .instr (.call nnn) ∧
    (∀ k : Fin 16, s.sp.val = k.val →
      ∃ t, exec (.call nnn) s = .next t ∧ t.sp.val = k.val + 1 ∧
        t.stack[k].toNat = (s.pc.toNat + 2) % 65536 ∧ (∀ j : Fin 16, j ≠ k → t.stack[j] = s.stack[j]) ∧
        t.pc.toNat = nnn.toNat ∧ t.v = s.v ∧ t.status = .retired) ∧
    (s.sp.val = 16 →
      ∃ t r, exec (.call nnn) s = .next t ∧ t.fault = some r ∧ r.kind = .stackOverflow ∧
        OnlyChanges s t (· ∈ faultParts))

/-- 40_control_flow.md R108: a return that pops the entry a call at p pushed goes to p + 2 and leaves SP
as it was before the call, whatever the subroutine did to the rest of the state. -/
def Obligations.ReturnGoesToTheInstructionAfterTheCall : Prop :=
  ∀ (nnn : Addr) (s t t' : State), s.sp.val < 16 → exec (.call nnn) s = .next t →
    t'.sp = t.sp → (∀ k : Fin 16, k.val < t.sp.val → t'.stack[k] = t.stack[k]) →
    ∃ u, exec .ret t' = .next u ∧ u.pc = s.pc + 2 ∧ u.sp = s.sp

/-- 40_control_flow.md R103, R104: `SE Vx, kk` and `SNE Vx, kk`; where the new pc is 4095 or more the next
fetch faults; that
it records no opcode (60_exceptions.md R266: D24) and changes nothing else (R268: D10) is the spec's own
choice (notes/assumptions/11.md). -/
def Obligations.SkipComparesWithTheImmediate : Prop :=
  ∀ (x : Reg) (kk : Byte) (s : State),
    decode (BitVec.ofNat 16 (0x3000 + x.val * 256 + kk.toNat)) = .instr (.seImm x kk) ∧
    decode (BitVec.ofNat 16 (0x4000 + x.val * 256 + kk.toNat)) = .instr (.sneImm x kk) ∧
    (∃ t, exec (.seImm x kk) s = .next t ∧ t.v = s.v ∧ t.status = .retired ∧
      t.pc.toNat = (s.pc.toNat + if s.v[x] = kk then 4 else 2) % 65536 ∧
      (s.fault = none → t.pc.toNat ≥ 4095 → t.NextFetchFails)) ∧
    (∃ t, exec (.sneImm x kk) s = .next t ∧ t.v = s.v ∧ t.status = .retired ∧
      t.pc.toNat = (s.pc.toNat + if s.v[x] ≠ kk then 4 else 2) % 65536 ∧
      (s.fault = none → t.pc.toNat ≥ 4095 → t.NextFetchFails))

/-- 40_control_flow.md R105, R106: `SE Vx, Vy` and `SNE Vx, Vy`; where the new pc is 4095 or more the next
fetch faults; that
it records no opcode (60_exceptions.md R266: D24) and changes nothing else (R268: D10) is the spec's own
choice (notes/assumptions/11.md). -/
def Obligations.SkipComparesRegisters : Prop :=
  ∀ (x y : Reg) (s : State),
    decode (BitVec.ofNat 16 (0x5000 + x.val * 256 + y.val * 16)) = .instr (.seReg x y) ∧
    decode (BitVec.ofNat 16 (0x9000 + x.val * 256 + y.val * 16)) = .instr (.sneReg x y) ∧
    (∃ t, exec (.seReg x y) s = .next t ∧ t.v = s.v ∧ t.status = .retired ∧
      t.pc.toNat = (s.pc.toNat + if s.v[x] = s.v[y] then 4 else 2) % 65536 ∧
      (s.fault = none → t.pc.toNat ≥ 4095 → t.NextFetchFails)) ∧
    (∃ t, exec (.sneReg x y) s = .next t ∧ t.v = s.v ∧ t.status = .retired ∧
      t.pc.toNat = (s.pc.toNat + if s.v[x] ≠ s.v[y] then 4 else 2) % 65536 ∧
      (s.fault = none → t.pc.toNat ≥ 4095 → t.NextFetchFails))

/-- 40_control_flow.md R107 (not masked and not wrapped: the spec's own decision D23): `JP V0, nnn`. -/
def Obligations.JumpAddsV0WithoutWrapping : Prop :=
  ∀ (nnn : Addr) (s : State),
    decode (BitVec.ofNat 16 (0xB000 + nnn.toNat)) = .instr (.jpV0 nnn) ∧
    ∃ t, exec (.jpV0 nnn) s = .next t ∧ t.pc.toNat = nnn.toNat + s.v[0].toNat ∧ t.v = s.v ∧
      t.status = .retired

/-! ## Registers, arithmetic and logic -/

/-- 41_alu.md R130, R132: `LD Vx, kk` and `LD Vx, Vy`; no flag is written. That nothing but Vx, pc and the
status changes is 00_scope.md R11 (the spec's own decision D26; notes/assumptions/11.md). -/
def Obligations.LoadsWriteTheDestination : Prop :=
  ∀ (x y : Reg) (kk : Byte) (s : State),
    decode (BitVec.ofNat 16 (0x6000 + x.val * 256 + kk.toNat)) = .instr (.ldImm x kk) ∧
    decode (BitVec.ofNat 16 (0x8000 + x.val * 256 + y.val * 16)) = .instr (.ldReg x y) ∧
    (∃ t, exec (.ldImm x kk) s = .next t ∧ t.v[x] = kk ∧ (∀ r, r ≠ x → t.v[r] = s.v[r]) ∧
      t.pc = s.pc + 2 ∧ t.status = .retired ∧ OnlyChanges s t (· ∈ [.v x, .pc, .status])) ∧
    (∃ t, exec (.ldReg x y) s = .next t ∧ t.v[x] = s.v[y] ∧ (∀ r, r ≠ x → t.v[r] = s.v[r]) ∧
      t.pc = s.pc + 2 ∧ t.status = .retired ∧ OnlyChanges s t (· ∈ [.v x, .pc, .status]))

/-- R131: `ADD Vx, kk` is modulo 256 and writes no flag. -/
def Obligations.AddImmediateWrapsAndSetsNoFlag : Prop :=
  ∀ (x : Reg) (kk : Byte) (s : State),
    decode (BitVec.ofNat 16 (0x7000 + x.val * 256 + kk.toNat)) = .instr (.addImm x kk) ∧
    ∃ t, exec (.addImm x kk) s = .next t ∧ t.v[x].toNat = (s.v[x].toNat + kk.toNat) % 256 ∧
      (∀ r, r ≠ x → t.v[r] = s.v[r]) ∧ t.pc = s.pc + 2 ∧ t.status = .retired

/-- 41_alu.md R133 to R135, bit by bit; VF is not reset (the spec's own decision D26). -/
def Obligations.LogicWorksBitByBitAndSetsNoFlag : Prop :=
  ∀ (x y : Reg) (s : State),
    decode (BitVec.ofNat 16 (0x8001 + x.val * 256 + y.val * 16)) = .instr (.orReg x y) ∧
    decode (BitVec.ofNat 16 (0x8002 + x.val * 256 + y.val * 16)) = .instr (.andReg x y) ∧
    decode (BitVec.ofNat 16 (0x8003 + x.val * 256 + y.val * 16)) = .instr (.xorReg x y) ∧
    (∃ t, exec (.orReg x y) s = .next t ∧
      (∀ b, t.v[x].getLsbD b = (s.v[x].getLsbD b || s.v[y].getLsbD b)) ∧
      (∀ r, r ≠ x → t.v[r] = s.v[r]) ∧ t.pc = s.pc + 2 ∧ t.status = .retired) ∧
    (∃ t, exec (.andReg x y) s = .next t ∧
      (∀ b, t.v[x].getLsbD b = (s.v[x].getLsbD b && s.v[y].getLsbD b)) ∧
      (∀ r, r ≠ x → t.v[r] = s.v[r]) ∧ t.pc = s.pc + 2 ∧ t.status = .retired) ∧
    (∃ t, exec (.xorReg x y) s = .next t ∧
      (∀ b, t.v[x].getLsbD b = (s.v[x].getLsbD b ^^ s.v[y].getLsbD b)) ∧
      (∀ r, r ≠ x → t.v[r] = s.v[r]) ∧ t.pc = s.pc + 2 ∧ t.status = .retired)

/-- 41_alu.md R136: the sum modulo 256 and the carry; operands are read first and Vx is written last, so
with x = 0xF the sum stays (the spec's own decision D2). -/
def Obligations.AddSetsTheCarry : Prop :=
  ∀ (x y : Reg) (s : State),
    decode (BitVec.ofNat 16 (0x8004 + x.val * 256 + y.val * 16)) = .instr (.addReg x y) ∧
    ∃ t, exec (.addReg x y) s = .next t ∧
      t.v[x].toNat = (s.v[x].toNat + s.v[y].toNat) % 256 ∧
      (x ≠ vf → t.v[vf].toNat = if s.v[x].toNat + s.v[y].toNat > 255 then 1 else 0) ∧
      t.pc = s.pc + 2 ∧ t.status = .retired

/-- 41_alu.md R137, R139: the difference modulo 256, and VF = 1 iff the minuend is strictly greater
(90_conflicts.md C3); with x = 0xF the difference stays (the spec's own decision D2). -/
def Obligations.SubtractSetsTheNoBorrowFlag : Prop :=
  ∀ (x y : Reg) (s : State),
    decode (BitVec.ofNat 16 (0x8005 + x.val * 256 + y.val * 16)) = .instr (.subReg x y) ∧
    decode (BitVec.ofNat 16 (0x8007 + x.val * 256 + y.val * 16)) = .instr (.subnReg x y) ∧
    (∃ t, exec (.subReg x y) s = .next t ∧
      (t.v[x].toNat : Int) = ((s.v[x].toNat : Int) - s.v[y].toNat) % 256 ∧
      (x ≠ vf → t.v[vf].toNat = if s.v[x].toNat > s.v[y].toNat then 1 else 0) ∧
      t.pc = s.pc + 2 ∧ t.status = .retired) ∧
    (∃ t, exec (.subnReg x y) s = .next t ∧
      (t.v[x].toNat : Int) = ((s.v[y].toNat : Int) - s.v[x].toNat) % 256 ∧
      (x ≠ vf → t.v[vf].toNat = if s.v[y].toNat > s.v[x].toNat then 1 else 0) ∧
      t.pc = s.pc + 2 ∧ t.status = .retired)

/-- 41_alu.md R138, R140: the source `c` is V[x] or V[y] as `SHIFT_SRC` says (OPEN, D19: the statement
holds for both settings); it moves one bit, the bit moved out goes to VF, and with x = 0xF the result
stays (the spec's own decision D2). -/
def Obligations.ShiftsMoveOneBitIntoVf : Prop :=
  ∀ (x y : Reg) (s : State) (c : Byte),
    (s.cfg.shiftSrc = .vx → c = s.v[x]) → (s.cfg.shiftSrc = .vy → c = s.v[y]) →
    decode (BitVec.ofNat 16 (0x8006 + x.val * 256 + y.val * 16)) = .instr (.shrReg x y) ∧
    decode (BitVec.ofNat 16 (0x800E + x.val * 256 + y.val * 16)) = .instr (.shlReg x y) ∧
    (∃ t, exec (.shrReg x y) s = .next t ∧ t.v[x].toNat = c.toNat / 2 ∧
      (x ≠ vf → t.v[vf].toNat = c.toNat % 2) ∧ t.pc = s.pc + 2 ∧ t.status = .retired) ∧
    (∃ t, exec (.shlReg x y) s = .next t ∧ t.v[x].toNat = c.toNat * 2 % 256 ∧
      (x ≠ vf → t.v[vf].toNat = c.toNat / 128) ∧ t.pc = s.pc + 2 ∧ t.status = .retired)

/-- 41_alu.md R141, 60_exceptions.md R287 (the random byte as an input of the step is the spec's own
decision D18): Vx gets the step's random byte masked by kk, for every byte; every other instruction
does the same with another random byte. -/
def Obligations.RandomByteIsMaskedAndUsedByRndOnly : Prop :=
  (∀ (x : Reg) (kk : Byte) (s : State),
    decode (BitVec.ofNat 16 (0xC000 + x.val * 256 + kk.toNat)) = .instr (.rnd x kk) ∧
    ∃ t, exec (.rnd x kk) s = .next t ∧
      (∀ b, t.v[x].getLsbD b = (s.input.rnd.getLsbD b && kk.getLsbD b)) ∧
      (∀ r, r ≠ x → t.v[r] = s.v[r]) ∧ t.pc = s.pc + 2 ∧ t.status = .retired) ∧
  (∀ (s : State) (inp : StepInput) (rest : List StepInput), s.inputs = inp :: rest → s.input = inp) ∧
  (∀ (s t : State) (i : Instr) (keys : Vector Bool 16) (r r' : Byte) (rest : List StepInput),
    s.inputs = { keys := keys, rnd := r } :: rest → exec i s = .next t → (∀ x kk, i ≠ .rnd x kk) →
      exec i { s with inputs := { keys := keys, rnd := r' } :: rest } =
        .next { t with inputs := { keys := keys, rnd := r' } :: rest })

/-! ## Index register and memory -/

/-- R170: `LD I, nnn`. -/
def Obligations.LoadIndexAcceptsEveryAddress : Prop :=
  ∀ (nnn : Addr) (s : State),
    decode (BitVec.ofNat 16 (0xA000 + nnn.toNat)) = .instr (.ldI nnn) ∧
    ∃ t, exec (.ldI nnn) s = .next t ∧ t.i.toNat = nnn.toNat ∧ t.v = s.v ∧ t.pc = s.pc + 2 ∧
      t.status = .retired

/-- 42_memory_index.md R171 (modulo 2^16: the spec's own decision D6; VF unchanged: D26):
`ADD I, Vx`. -/
def Obligations.AddIndexWrapsAt16Bits : Prop :=
  ∀ (x : Reg) (s : State),
    decode (BitVec.ofNat 16 (0xF01E + x.val * 256)) = .instr (.addI x) ∧
    ∃ t, exec (.addI x) s = .next t ∧ t.i.toNat = (s.i.toNat + s.v[x].toNat) % 65536 ∧ t.v = s.v ∧
      t.pc = s.pc + 2 ∧ t.status = .retired

/-- 42_memory_index.md R172 (unmasked: the spec's own decision D8): `LD F, Vx`. -/
def Obligations.LoadFontPointsAtTheGlyph : Prop :=
  ∀ (x : Reg) (s : State),
    decode (BitVec.ofNat 16 (0xF029 + x.val * 256)) = .instr (.ldFont x) ∧
    ∃ t, exec (.ldFont x) s = .next t ∧ t.i.toNat = 0x050 + 5 * s.v[x].toNat ∧ t.v = s.v ∧
      t.pc = s.pc + 2 ∧ t.status = .retired

/-- 42_memory_index.md R173 (the range check: the spec's own decision D5): `LD B, Vx` stores hundreds, tens
and ones at I, I+1, I+2 and leaves I; when I + 2 >= 4096 it raises `AddressOutOfRange` and no byte is
written. Memory is in canonical form (an invariant of the
step: StepKeepsTheInvariant). -/
def Obligations.DecimalDigitsAreStored : Prop :=
  ∀ (x : Reg) (s : State), s.mem.wf = true →
    decode (BitVec.ofNat 16 (0xF033 + x.val * 256)) = .instr (.ldBcd x) ∧
    (s.i.toNat + 2 < 4096 →
      ∃ t, exec (.ldBcd x) s = .next t ∧
        (t.mem.read s.i.toNat).toNat = s.v[x].toNat / 100 ∧
        (t.mem.read (s.i.toNat + 1)).toNat = s.v[x].toNat / 10 % 10 ∧
        (t.mem.read (s.i.toNat + 2)).toNat = s.v[x].toNat % 10 ∧
        (∀ a, a < s.i.toNat ∨ s.i.toNat + 2 < a → t.mem.read a = s.mem.read a) ∧
        t.i = s.i ∧ t.v = s.v ∧ t.pc = s.pc + 2 ∧ t.status = .retired) ∧
    (s.i.toNat + 2 ≥ 4096 →
      ∃ t r, exec (.ldBcd x) s = .next t ∧ t.fault = some r ∧ r.kind = .addressOutOfRange ∧
        r.addr = some (max s.i.toNat 4096) ∧ OnlyChanges s t (· ∈ faultParts))

/-- 42_memory_index.md R174: `LD [I], Vx` stores V0..Vx at I..I+x and adds x+1 to I under `LDST_INC_I`,
modulo 2^16 (the spec's own decision D6); when I + x >= 4096 it raises `AddressOutOfRange` and
nothing is written. -/
def Obligations.StoreRegistersFromV0ToVx : Prop :=
  ∀ (x : Reg) (s : State), s.mem.wf = true →
    decode (BitVec.ofNat 16 (0xF055 + x.val * 256)) = .instr (.storeRegs x) ∧
    (s.i.toNat + x.val < 4096 →
      ∃ t, exec (.storeRegs x) s = .next t ∧
        (∀ k : Reg, k ≤ x → t.mem.read (s.i.toNat + k.val) = s.v[k]) ∧
        (∀ a, a < s.i.toNat ∨ s.i.toNat + x.val < a → t.mem.read a = s.mem.read a) ∧
        t.i.toNat = (if s.cfg.ldstIncI = true then (s.i.toNat + x.val + 1) % 65536 else s.i.toNat) ∧
        t.v = s.v ∧ t.pc = s.pc + 2 ∧ t.status = .retired) ∧
    (s.i.toNat + x.val ≥ 4096 →
      ∃ t r, exec (.storeRegs x) s = .next t ∧ t.fault = some r ∧ r.kind = .addressOutOfRange ∧
        r.addr = some (max s.i.toNat 4096) ∧ OnlyChanges s t (· ∈ faultParts))

/-- 42_memory_index.md R175: `LD Vx, [I]` loads V0..Vx from I..I+x, keeps the registers above x, and adds
x+1 to I under `LDST_INC_I`, modulo 2^16 (the spec's own decision D6); when I + x >= 4096 it raises
`AddressOutOfRange` and no register is written. -/
def Obligations.LoadRegistersFromV0ToVx : Prop :=
  ∀ (x : Reg) (s : State),
    decode (BitVec.ofNat 16 (0xF065 + x.val * 256)) = .instr (.loadRegs x) ∧
    (s.i.toNat + x.val < 4096 →
      ∃ t, exec (.loadRegs x) s = .next t ∧
        (∀ k : Reg, k ≤ x → t.v[k] = s.mem.read (s.i.toNat + k.val)) ∧
        (∀ k : Reg, x < k → t.v[k] = s.v[k]) ∧
        t.i.toNat = (if s.cfg.ldstIncI = true then (s.i.toNat + x.val + 1) % 65536 else s.i.toNat) ∧
        t.mem = s.mem ∧ t.pc = s.pc + 2 ∧ t.status = .retired) ∧
    (s.i.toNat + x.val ≥ 4096 →
      ∃ t r, exec (.loadRegs x) s = .next t ∧ t.fault = some r ∧ r.kind = .addressOutOfRange ∧
        r.addr = some (max s.i.toNat 4096) ∧ OnlyChanges s t (· ∈ faultParts))

/-- Canonical memories that read alike at every address are the same list (the model's form of `MEM`:
notes/assumptions/8.md). -/
def Obligations.CanonicalMemoriesThatReadAlikeAreEqual : Prop :=
  ∀ m m' : Memory, m.wf = true → m'.wf = true → (∀ a, a < 4096 → m.read a = m'.read a) → m = m'

/-- 20_memory.md R64 (the spec's own decision D21): a byte stored by Fx33 or Fx55 is what a later fetch of its
address reads, as the first or the second byte of its word, in every state in which that byte has not
been written again (the next step's among them). -/
def Obligations.StoredBytesAreFetched : Prop :=
  ∀ (s t u : State) (x : Reg) (a : Nat), s.mem.wf = true → u.mem.read a = t.mem.read a →
    (exec (.storeRegs x) s = .next t → s.i.toNat + x.val < 4096 →
      ∀ k : Reg, k ≤ x → a = s.i.toNat + k.val →
        (u.pc.toNat = a → u.wordAtPc.toNat / 256 = s.v[k].toNat) ∧
        (u.pc.toNat + 1 = a → u.wordAtPc.toNat % 256 = s.v[k].toNat)) ∧
    (exec (.ldBcd x) s = .next t → s.i.toNat + 2 < 4096 →
      ∀ k : Nat, k < 3 → a = s.i.toNat + k →
        (u.pc.toNat = a → u.wordAtPc.toNat / 256 = s.v[x].toNat / 10 ^ (2 - k) % 10) ∧
        (u.pc.toNat + 1 = a → u.wordAtPc.toNat % 256 = s.v[x].toNat / 10 ^ (2 - k) % 10))

/-! ## Display -/

/-- R200: `CLS` clears all 2048 pixels and writes no flag. -/
def Obligations.ClearDisplayClearsEveryPixel : Prop :=
  decode 0x00E0#16 = .instr .cls ∧
  ∀ s : State, ∃ t, exec .cls s = .next t ∧ (∀ px py, t.disp.pixel px py = false) ∧
    t.v = s.v ∧ t.i = s.i ∧ t.mem = s.mem ∧ t.pc = s.pc + 2 ∧ t.status = .retired

/-- 43_display.md R201: Dxyn toggles exactly the pixels its sprite lights, wrapped in both axes, with the
coordinates read before VF is written (D2), the sprite's bit 7 leftmost (D13, general knowledge:
notes/assumptions/6.md), and n = 0 drawing nothing (D16); out of range it raises
`AddressOutOfRange` and nothing changes (D5). -/
def Obligations.DrawTogglesThePixelsOfTheSprite : Prop :=
  ∀ (x y : Reg) (n : Fin 16) (s : State),
    decode (BitVec.ofNat 16 (0xD000 + x.val * 256 + y.val * 16 + n.val)) = .instr (.drw x y n) ∧
    (n.val = 0 ∨ s.i.toNat + n.val ≤ 4096 →
      ∃ t, exec (.drw x y n) s = .next t ∧
        (∀ px py, s.SpriteLights x y n px py → t.disp.pixel px py = !s.disp.pixel px py) ∧
        (∀ px py, ¬ s.SpriteLights x y n px py → t.disp.pixel px py = s.disp.pixel px py) ∧
        t.i = s.i ∧ t.pc = s.pc + 2 ∧ t.status = .retired) ∧
    (n.val ≠ 0 → s.i.toNat + n.val > 4096 →
      ∃ t r, exec (.drw x y n) s = .next t ∧ t.fault = some r ∧ r.kind = .addressOutOfRange ∧
        r.addr = some (max s.i.toNat 4096) ∧ OnlyChanges s t (· ∈ faultParts))

/-- 43_display.md R201: after Dxyn VF is 1 if some pixel went from 1 to 0, else 0 (sprite bit order: D13,
notes/assumptions/6.md; n = 0: D16; coordinates read first: D2). -/
def Obligations.DrawSetsVfOnCollision : Prop :=
  ∀ (x y : Reg) (n : Fin 16) (s : State), n.val = 0 ∨ s.i.toNat + n.val ≤ 4096 →
    ∃ t, exec (.drw x y n) s = .next t ∧
      ((∃ px py, s.disp.pixel px py = true ∧ t.disp.pixel px py = false) → t.v[vf].toNat = 1) ∧
      ((∀ px py, s.disp.pixel px py = true → t.disp.pixel px py = true) → t.v[vf].toNat = 0) ∧
      (n.val = 0 → t.v[vf].toNat = 0)

/-- 43_display.md R203: drawing the same sprite at the same position again, with no other display write
between, restores every pixel. By R201 VF is then 1 iff the first draw set a pixel; on a display where
the sprite's pixels were clear that is iff the sprite has a set bit, as R203's second sentence says of
any display, against program P3 of 95_test_vectors.md (notes/assumptions/10.md). The second draw may be
made in any later state with that display, sprite, I and position. Which pixels the sprite lights rests
on the bit order (the spec's own decision D13, notes/assumptions/6.md), its range on D5, n = 0 on D16
(notes/assumptions/11.md). -/
def Obligations.DoubleDrawRestoresTheDisplay : Prop :=
  ∀ (x y : Reg) (n : Fin 16) (s t t' : State), n.val = 0 ∨ s.i.toNat + n.val ≤ 4096 →
    exec (.drw x y n) s = .next t →
    t'.disp = t.disp → t'.mem = s.mem → t'.i = s.i → t'.v[x] = s.v[x] → t'.v[y] = s.v[y] →
    ∃ u, exec (.drw x y n) t' = .next u ∧ u.disp = s.disp ∧
      ((∃ px py, s.disp.pixel px py = false ∧ t.disp.pixel px py = true) → u.v[vf].toNat = 1) ∧
      ((∀ px py, t.disp.pixel px py = true → s.disp.pixel px py = true) → u.v[vf].toNat = 0) ∧
      ((∀ px py, s.SpriteLights x y n px py → s.disp.pixel px py = false) →
        ((∃ row, row < n.val ∧ s.mem.read (s.i.toNat + row) ≠ 0) → u.v[vf].toNat = 1) ∧
        ((∀ row, row < n.val → s.mem.read (s.i.toNat + row) = 0) → u.v[vf].toNat = 0))

/-! ## Keys and timers -/

/-- 44_input.md R220, R221 (the fault of a key index of 16 or more: the spec's own decision D7): `SKP Vx`
and `SKNP Vx`. -/
def Obligations.SkipTestsTheKeyNumberedVx : Prop :=
  ∀ (x : Reg) (s : State),
    decode (BitVec.ofNat 16 (0xE09E + x.val * 256)) = .instr (.skp x) ∧
    decode (BitVec.ofNat 16 (0xE0A1 + x.val * 256)) = .instr (.sknp x) ∧
    (∀ k : Fin 16, s.v[x].toNat = k.val →
      (∃ t, exec (.skp x) s = .next t ∧ t.v = s.v ∧ t.status = .retired ∧
        t.pc.toNat = (s.pc.toNat + if s.input.keys[k] = true then 4 else 2) % 65536) ∧
      (∃ t, exec (.sknp x) s = .next t ∧ t.v = s.v ∧ t.status = .retired ∧
        t.pc.toNat = (s.pc.toNat + if s.input.keys[k] = false then 4 else 2) % 65536)) ∧
    (s.v[x].toNat ≥ 16 →
      (∃ t r, exec (.skp x) s = .next t ∧ t.fault = some r ∧ r.kind = .addressOutOfRange ∧
        r.addr = some s.v[x].toNat ∧ OnlyChanges s t (· ∈ faultParts)) ∧
      (∃ t r, exec (.sknp x) s = .next t ∧ t.fault = some r ∧ r.kind = .addressOutOfRange ∧
        r.addr = some s.v[x].toNat ∧ OnlyChanges s t (· ∈ faultParts)))

/-- 44_input.md R222: Fx0A loads the lowest pressed key's index, or parks with no write while no key is
down; the timers tick on a parked step too (the spec's own decision D3). -/
def Obligations.KeyWaitLoadsTheLowestKeyOrParks : Prop :=
  ∀ (x : Reg) (s : State),
    decode (BitVec.ofNat 16 (0xF00A + x.val * 256)) = .instr (.ldVxKey x) ∧
    (∀ k : Fin 16, s.input.keys[k] = true → (∀ j : Fin 16, j < k → s.input.keys[j] = false) →
      ∃ t, exec (.ldVxKey x) s = .next t ∧ t.v[x].toNat = k.val ∧ (∀ r, r ≠ x → t.v[r] = s.v[r]) ∧
        t.pc = s.pc + 2 ∧ t.status = .retired) ∧
    ((∀ k : Fin 16, s.input.keys[k] = false) →
      (∃ t, exec (.ldVxKey x) s = .next t ∧ OnlyChanges s t (· ∈ [.status]) ∧ t.status = .parked) ∧
      (s.Runs (.ldVxKey x) →
        ∃ u, step s = .next u ∧ u.status = .parked ∧ u.pc = s.pc ∧ u.v = s.v ∧ u.fault = none ∧
          u.dt.toNat = s.dt.toNat - 1 ∧ u.st.toNat = s.st.toNat - 1))

/-- 44_input.md R223: Fx0A wakes on level: through any number of steps whose samples have no key pressed it
stays at its address, and the first step whose sample has a key pressed completes it. That the samples are
the scheduled inputs, one used up by each step, is the model's form (notes/assumptions/2.md). -/
def Obligations.KeyWaitCompletesOnTheFirstPressedSample : Prop :=
  ∀ (x : Reg) (s : State) (idle : List StepInput) (inp : StepInput) (rest : List StepInput),
    s.Runs (.ldVxKey x) → s.inputs = idle ++ inp :: rest →
    (∀ e ∈ idle, ∀ k : Fin 16, e.keys[k] = false) → (∃ k : Fin 16, inp.keys[k] = true) →
    (∃ u, Sys2Proof.core.run idle.length s = .next u ∧ u.Runs (.ldVxKey x) ∧ u.pc = s.pc) ∧
    (∃ u, Sys2Proof.core.run (idle.length + 1) s = .next u ∧ u.status = .retired ∧
      u.pc = s.pc + 2 ∧ ∃ k : Fin 16, inp.keys[k] = true ∧ u.v[x].toNat = k.val)

/-- R240: `LD Vx, DT` reads DT as the previous step's tick left it. -/
def Obligations.ReadDelayTimerLoadsDt : Prop :=
  ∀ (x : Reg) (s : State),
    decode (BitVec.ofNat 16 (0xF007 + x.val * 256)) = .instr (.ldVxDt x) ∧
    (∃ t, exec (.ldVxDt x) s = .next t ∧ t.v[x] = s.dt ∧ (∀ r, r ≠ x → t.v[r] = s.v[r]) ∧
      t.dt = s.dt ∧ t.pc = s.pc + 2 ∧ t.status = .retired) ∧
    (s.Runs (.ldVxDt x) → ∃ u, step s = .next u ∧ u.v[x] = s.dt ∧ u.dt.toNat = s.dt.toNat - 1)

/-- 45_timers.md R241, R242: `LD DT, Vx` and `LD ST, Vx` set a timer, and the tick of the same step
decrements the new value and reports its sound (the spec's own decision D4). -/
def Obligations.WriteTimersBeforeTheTick : Prop :=
  ∀ (x : Reg) (s : State),
    decode (BitVec.ofNat 16 (0xF015 + x.val * 256)) = .instr (.ldDtVx x) ∧
    decode (BitVec.ofNat 16 (0xF018 + x.val * 256)) = .instr (.ldStVx x) ∧
    (∃ t, exec (.ldDtVx x) s = .next t ∧ t.dt = s.v[x] ∧ t.v = s.v ∧ t.pc = s.pc + 2 ∧
      t.status = .retired) ∧
    (∃ t, exec (.ldStVx x) s = .next t ∧ t.st = s.v[x] ∧ t.v = s.v ∧ t.pc = s.pc + 2 ∧
      t.status = .retired) ∧
    (s.Runs (.ldDtVx x) → ∃ u, step s = .next u ∧ u.dt.toNat = s.v[x].toNat - 1) ∧
    (s.Runs (.ldStVx x) → ∃ u, step s = .next u ∧ u.st.toNat = s.v[x].toNat - 1 ∧
      (u.sound = true ↔ s.v[x].toNat ≠ 0))

/-! ## Construction and the Loader -/

/-- R300: construction takes the configuration and sets every piece of state; the machine right after
reset is a construction. -/
def Obligations.ConstructionSetsEveryPieceOfState : Prop :=
  (∀ c : Config,
    (State.construct c).cfg = c ∧
    (∀ a, (State.construct c).mem.read a = 0) ∧ (∀ x : Reg, (State.construct c).v[x] = 0) ∧
    (State.construct c).i = 0 ∧ (State.construct c).pc.toNat = 0x200 ∧
    (State.construct c).sp.val = 0 ∧ (∀ k : Fin 16, (State.construct c).stack[k] = 0) ∧
    (State.construct c).dt = 0 ∧ (State.construct c).st = 0 ∧
    (∀ px py, (State.construct c).disp.pixel px py = false) ∧ (State.construct c).fault = none) ∧
  ∃ c, State.reset = State.construct c

/-- R301: `loadFontset` writes FONT at 0x050 and changes nothing else; glyph d is at 0x050 + 5d, and
a repeated call copies the table again. Memory is in canonical form (notes/assumptions/8.md), as every step
and Loader call keeps it. -/
def Obligations.LoadFontsetWritesTheTable : Prop :=
  ∀ s : State, s.mem.wf = true →
    (∀ k : Fin 80, (loadFontset s).mem.read (0x050 + k.val) = s.cfg.font[k]) ∧
    (∀ (d : Fin 16) (row : Fin 5), ∃ k : Fin 80, k.val = 5 * d.val + row.val ∧
      (loadFontset s).mem.read (0x050 + 5 * d.val + row.val) = s.cfg.font[k]) ∧
    OnlyChanges s (loadFontset s) (fun p => ∃ a, 0x050 ≤ a ∧ a < 0x0A0 ∧ p = .mem a) ∧
    loadFontset (loadFontset s) = loadFontset s

/-- R302: `loadProgram` copies the bytes unchanged from 0x200 up and changes nothing else; a ROM longer
than 3584 bytes returns `RomTooLarge` before any byte is written. Memory is in canonical form
(notes/assumptions/8.md). -/
def Obligations.LoadProgramCopiesTheRom : Prop :=
  ∀ (bytes : List Byte) (s : State), s.mem.wf = true →
    (bytes.length > 3584 → loadProgram bytes s = (.romTooLarge, s)) ∧
    (bytes.length ≤ 3584 →
      (loadProgram bytes s).1 = .ok ∧
      (∀ (k : Nat) (b : Byte), bytes[k]? = some b → (loadProgram bytes s).2.mem.read (0x200 + k) = b) ∧
      OnlyChanges s (loadProgram bytes s).2
        (fun p => ∃ a, 0x200 ≤ a ∧ a < 0x200 + bytes.length ∧ p = .mem a))

/-- 70_reset_and_hazards.md R305: the two Loader calls write disjoint ranges, so their order does not
change the result. -/
def Obligations.LoaderCallsCommute : Prop :=
  ∀ (rom : List Byte) (s : State), s.mem.wf = true →
    (loadProgram rom (loadFontset s)).1 = (loadProgram rom s).1 ∧
    (loadProgram rom (loadFontset s)).2 = loadFontset (loadProgram rom s).2
end

