-- ==== Sys2Proof/Laws/Decode.lean ====
section
/-! SUPPORT. The fields of an opcode word as arithmetic, the fields of each format's word, and the bytes of a word. -/

namespace Sys2Proof

/-! ## Fields as arithmetic -/

theorem opT_eq (w : Word) : opT w = w.toNat / 4096 := by
  have h := w.isLt
  simp [opT, BitVec.extractLsb_toNat, Nat.shiftRight_eq_div_pow]; omega

theorem opX_val (w : Word) : (opX w).val = w.toNat / 256 % 16 := by
  show (w.extractLsb 11 8).toNat = _
  simp [BitVec.extractLsb_toNat, Nat.shiftRight_eq_div_pow]

theorem opY_val (w : Word) : (opY w).val = w.toNat / 16 % 16 := by
  show (w.extractLsb 7 4).toNat = _
  simp [BitVec.extractLsb_toNat, Nat.shiftRight_eq_div_pow]

theorem opN_val (w : Word) : (opN w).val = w.toNat % 16 := by
  show (w.extractLsb 3 0).toNat = _
  simp [BitVec.extractLsb_toNat]

theorem opKK_toNat (w : Word) : (opKK w).toNat = w.toNat % 256 := by
  show (w.extractLsb 7 0).toNat = _
  simp [BitVec.extractLsb_toNat]

theorem opNNN_toNat (w : Word) : (opNNN w).toNat = w.toNat % 4096 := by
  show (w.extractLsb 11 0).toNat = _
  simp [BitVec.extractLsb_toNat]

/-! ## Packed words as numbers -/

theorem packNNN_toNat (t : Nat) (nnn : Addr) (ht : t < 16) :
    (packNNN t nnn).toNat = t * 4096 + nnn.toNat := by
  have := nnn.isLt
  simp [packNNN]; omega

theorem packXKK_toNat (t : Nat) (x : Reg) (kk : Byte) (ht : t < 16) :
    (packXKK t x kk).toNat = t * 4096 + x.val * 256 + kk.toNat := by
  have := kk.isLt
  have := x.isLt
  simp [packXKK]; omega

theorem packXYN_toNat (t : Nat) (x y : Reg) (n : Fin 16) (ht : t < 16) :
    (packXYN t x y n).toNat = t * 4096 + x.val * 256 + y.val * 16 + n.val := by
  have := n.isLt
  have := x.isLt
  have := y.isLt
  simp [packXYN]; omega

/-! ## The fields of a packed word -/

@[simp] theorem opT_packNNN (t : Nat) (nnn : Addr) (ht : t < 16) : opT (packNNN t nnn) = t := by
  have := nnn.isLt
  rw [opT_eq, packNNN_toNat t nnn ht]; omega

@[simp] theorem opNNN_packNNN (t : Nat) (nnn : Addr) (ht : t < 16) : opNNN (packNNN t nnn) = nnn := by
  have := nnn.isLt
  apply BitVec.eq_of_toNat_eq
  rw [opNNN_toNat, packNNN_toNat t nnn ht]; omega

@[simp] theorem opT_packXKK (t : Nat) (x : Reg) (kk : Byte) (ht : t < 16) : opT (packXKK t x kk) = t := by
  have := kk.isLt
  have := x.isLt
  rw [opT_eq, packXKK_toNat t x kk ht]; omega

@[simp] theorem opX_packXKK (t : Nat) (x : Reg) (kk : Byte) (ht : t < 16) : opX (packXKK t x kk) = x := by
  have := kk.isLt
  have := x.isLt
  apply Fin.ext
  rw [opX_val, packXKK_toNat t x kk ht]; omega

@[simp] theorem opKK_packXKK (t : Nat) (x : Reg) (kk : Byte) (ht : t < 16) : opKK (packXKK t x kk) = kk := by
  have := kk.isLt
  have := x.isLt
  apply BitVec.eq_of_toNat_eq
  rw [opKK_toNat, packXKK_toNat t x kk ht]; omega

@[simp] theorem opT_packXYN (t : Nat) (x y : Reg) (n : Fin 16) (ht : t < 16) : opT (packXYN t x y n) = t := by
  have := n.isLt
  have := x.isLt
  have := y.isLt
  rw [opT_eq, packXYN_toNat t x y n ht]; omega

@[simp] theorem opX_packXYN (t : Nat) (x y : Reg) (n : Fin 16) (ht : t < 16) : opX (packXYN t x y n) = x := by
  have := n.isLt
  have := x.isLt
  have := y.isLt
  apply Fin.ext
  rw [opX_val, packXYN_toNat t x y n ht]; omega

@[simp] theorem opY_packXYN (t : Nat) (x y : Reg) (n : Fin 16) (ht : t < 16) : opY (packXYN t x y n) = y := by
  have := n.isLt
  have := x.isLt
  have := y.isLt
  apply Fin.ext
  rw [opY_val, packXYN_toNat t x y n ht]; omega

@[simp] theorem opN_packXYN (t : Nat) (x y : Reg) (n : Fin 16) (ht : t < 16) : opN (packXYN t x y n) = n := by
  have := n.isLt
  have := x.isLt
  have := y.isLt
  apply Fin.ext
  rw [opN_val, packXYN_toNat t x y n ht]; omega

/-! ## A word from its fields: the converse, per format -/

theorem packNNN_fields (w : Word) : packNNN (opT w) (opNNN w) = w := by
  have := w.isLt
  apply BitVec.eq_of_toNat_eq
  rw [packNNN_toNat _ _ (by rw [opT_eq]; omega), opT_eq, opNNN_toNat]; omega

theorem packXKK_fields (w : Word) : packXKK (opT w) (opX w) (opKK w) = w := by
  have := w.isLt
  apply BitVec.eq_of_toNat_eq
  rw [packXKK_toNat _ _ _ (by rw [opT_eq]; omega), opT_eq, opX_val, opKK_toNat]; omega

theorem packXYN_fields (w : Word) : packXYN (opT w) (opX w) (opY w) (opN w) = w := by
  have := w.isLt
  apply BitVec.eq_of_toNat_eq
  rw [packXYN_toNat _ _ _ _ (by rw [opT_eq]; omega), opT_eq, opX_val, opY_val, opN_val]; omega

/-! ## Bytes of a word -/

theorem highByte_toNat (w : Word) : (highByte w).toNat = w.toNat / 256 := by
  have := w.isLt
  show (w.extractLsb 15 8).toNat = _
  simp [BitVec.extractLsb_toNat, Nat.shiftRight_eq_div_pow]; omega

theorem lowByte_toNat (w : Word) : (lowByte w).toNat = w.toNat % 256 := by
  show (w.extractLsb 7 0).toNat = _
  simp [BitVec.extractLsb_toNat]

theorem wordOfBytes_toNat (hi lo : Byte) : (wordOfBytes hi lo).toNat = hi.toNat * 256 + lo.toNat := by
  have := hi.isLt
  have := lo.isLt
  simp [wordOfBytes]; omega

/-- A word is read back from its two bytes, high byte first. -/
@[simp] theorem wordOfBytes_bytes (w : Word) : wordOfBytes (highByte w) (lowByte w) = w := by
  have := w.isLt
  apply BitVec.eq_of_toNat_eq
  rw [wordOfBytes_toNat, highByte_toNat, lowByte_toNat]; omega

/-! ## What decoding can answer -/

/-- An illegal verdict carries the word itself. -/
theorem decode_illegal_word (w op : Word) (h : decode w = .illegal op) : op = w := by
  unfold decode decodeFix decodeAlu decodeKey decodeMisc at h
  repeat' split at h
  all_goals first
    | exact (Decoded.illegal.inj h).symm
    | exact absurd h (by simp)

end Sys2Proof
end

