-- ==== Sys2Proof/Laws/Memory.lean ====
section
/-! SUPPORT. The laws of memory: reading after writing, and that every operation keeps the canonical form. -/

namespace Sys2Proof.Machine

@[simp] theorem Memory.read_nil (a : Nat) : Memory.read [] a = 0 := rfl

@[simp] theorem Memory.read_cons (k : Nat) (b : Byte) (m : Memory) (a : Nat) :
    Memory.read ((k, b) :: m) a = if k = a then b else Memory.read m a := rfl

@[simp] theorem Memory.wfFrom_nil (lo : Nat) : Memory.wfFrom lo [] = true := rfl

theorem Memory.wfFrom_cons (lo a : Nat) (b : Byte) (m : Memory) :
    Memory.wfFrom lo ((a, b) :: m) = true ↔
      lo ≤ a ∧ a < 4096 ∧ b ≠ 0 ∧ Memory.wfFrom (a + 1) m = true := by
  simp only [Memory.wfFrom, Bool.and_eq_true, decide_eq_true_eq, and_assoc]
  rfl

theorem Memory.wfFrom_mono {lo lo' : Nat} (h : lo' ≤ lo) :
    ∀ m : Memory, m.wfFrom lo = true → m.wfFrom lo' = true
  | [], _ => rfl
  | (a, b) :: m, hm => by
    rw [Memory.wfFrom_cons] at *
    exact ⟨by omega, hm.2⟩

/-- Below its lower bound a canonical memory lists nothing. -/
theorem Memory.read_below {lo a : Nat} (h : a < lo) :
    ∀ m : Memory, m.wfFrom lo = true → m.read a = 0
  | [], _ => rfl
  | (k, b) :: m, hm => by
    rw [Memory.wfFrom_cons] at hm
    rw [Memory.read_cons, if_neg (by omega), Memory.read_below (by omega) m hm.2.2.2]

/-- At and above 4096 a canonical memory lists nothing. -/
theorem Memory.read_outside {lo a : Nat} (h : 4096 ≤ a) :
    ∀ m : Memory, m.wfFrom lo = true → m.read a = 0
  | [], _ => rfl
  | (k, b) :: m, hm => by
    rw [Memory.wfFrom_cons] at hm
    rw [Memory.read_cons, if_neg (by omega), Memory.read_outside h m hm.2.2.2]

/-- Reading after a write, from a lower bound of the list's addresses. -/
theorem Memory.read_write_from {lo : Nat} (a a' : Nat) (b : Byte) :
    ∀ m : Memory, m.wfFrom lo = true →
      (m.write a b).read a' = if a' = a then b else m.read a'
  | [], _ => by
    unfold Memory.write Memory.unlisted
    by_cases hb : b = 0
    · rw [if_pos hb, hb, Memory.read_nil, ite_self]
    · rw [if_neg hb, Memory.read_cons, Memory.read_nil]
      by_cases h1 : a' = a
      · rw [if_pos h1, if_pos h1.symm]
      · rw [if_neg h1, if_neg (Ne.symm h1)]
  | (k, c) :: m, hm => by
    rw [Memory.wfFrom_cons] at hm
    have low : a ≤ k → Memory.read m a = 0 := fun h => Memory.read_below (by omega) m hm.2.2.2
    unfold Memory.write Memory.unlisted
    split
    · rename_i hk
      rw [Memory.read_cons, Memory.read_write_from a a' b m hm.2.2.2, Memory.read_cons]
      by_cases h1 : k = a'
      · rw [if_pos h1, if_neg (by omega), if_pos h1]
      · rw [if_neg h1, if_neg h1]
    · split
      · rename_i hk; subst hk
        split
        · rename_i hb; subst hb
          by_cases h1 : a' = k
          · subst h1; rw [if_pos rfl, low (by omega)]
          · rw [if_neg h1, Memory.read_cons, if_neg (by omega)]
        · rw [Memory.read_cons, Memory.read_cons]
          by_cases h1 : a' = k
          · subst h1; simp
          · rw [if_neg (by omega), if_neg h1, if_neg (by omega)]
      · split
        · rename_i hb; subst hb
          by_cases h1 : a' = a
          · subst h1; rw [if_pos rfl, Memory.read_cons, if_neg (by omega), low (by omega)]
          · rw [if_neg h1]
        · rw [Memory.read_cons]
          by_cases h1 : a' = a
          · subst h1; simp
          · rw [if_neg (by omega), if_neg h1]

/-- A write leaves the read of every other address alone, in every memory. -/
theorem Memory.read_write_ne {a a' : Nat} (b : Byte) (h : a' ≠ a) :
    ∀ m : Memory, (m.write a b).read a' = m.read a'
  | [] => by
    unfold Memory.write; split
    · rfl
    · rw [Memory.read_cons, if_neg (Ne.symm h)]
  | (k, c) :: m => by
    unfold Memory.write
    split
    · rw [Memory.read_cons, Memory.read_cons, Memory.read_write_ne b h m]
    · split
      · rename_i hk; subst hk
        split
        · rw [Memory.read_cons, if_neg (Ne.symm h)]
        · rw [Memory.read_cons, Memory.read_cons, if_neg (Ne.symm h), if_neg (Ne.symm h)]
      · split
        · rfl
        · rw [Memory.read_cons, if_neg (Ne.symm h)]

/-- Consecutive writes leave the read of every address outside their range alone, in every memory. -/
theorem Memory.read_writeBytes_ne : ∀ (bs : List Byte) (m : Memory) (a a' : Nat),
    a' < a ∨ a + bs.length ≤ a' → (m.writeBytes a bs).read a' = m.read a'
  | [], _, _, _, _ => rfl
  | b :: bs, m, a, a', h => by
    simp only [List.length_cons] at h
    unfold Memory.writeBytes
    rw [Memory.read_writeBytes_ne bs _ _ _ (by omega), Memory.read_write_ne _ (by omega)]

theorem Memory.wfFrom_write {lo a : Nat} (b : Byte) (ha : a < 4096) (hl : lo ≤ a) :
    ∀ m : Memory, m.wfFrom lo = true → (m.write a b).wfFrom lo = true
  | [], _ => by
    unfold Memory.write Memory.unlisted
    split
    · rfl
    · rw [Memory.wfFrom_cons]; exact ⟨hl, ha, by assumption, rfl⟩
  | (k, c) :: m, hm => by
    have hm' := hm
    rw [Memory.wfFrom_cons] at hm
    obtain ⟨h1, h2, h3, h4⟩ := hm
    unfold Memory.write Memory.unlisted
    split
    · rename_i hk
      rw [Memory.wfFrom_cons]
      exact ⟨h1, h2, h3, Memory.wfFrom_write b ha (by omega) m h4⟩
    · split
      · rename_i hk; subst hk
        split
        · exact Memory.wfFrom_mono (by omega) m h4
        · rw [Memory.wfFrom_cons]; exact ⟨h1, h2, by assumption, h4⟩
      · split
        · exact hm'
        · rw [Memory.wfFrom_cons]
          refine ⟨hl, ha, by assumption, ?_⟩
          rw [Memory.wfFrom_cons]; exact ⟨by omega, h2, h3, h4⟩

/-- Writing a byte keeps the canonical form. -/
theorem Memory.wf_write {m : Memory} {a : Nat} (b : Byte) (hm : m.wf = true) (ha : a < 4096) :
    (m.write a b).wf = true := Memory.wfFrom_write b ha (Nat.zero_le a) m hm

/-- Writing consecutive bytes below 4096 keeps the canonical form. -/
theorem Memory.wf_writeBytes : ∀ (bs : List Byte) (m : Memory) (a : Nat), m.wf = true →
    a + bs.length ≤ 4096 → (m.writeBytes a bs).wf = true
  | [], _, _, hm, _ => hm
  | b :: bs, m, a, hm, h => by
    simp only [List.length_cons] at h
    exact Memory.wf_writeBytes bs _ _ (Memory.wf_write b hm (by omega)) (by omega)

/-- Reading after consecutive writes: a byte of the range reads as the byte written there, every other
one as before. -/
theorem Memory.read_writeBytes : ∀ (bs : List Byte) (m : Memory) (a a' : Nat), m.wf = true →
    a + bs.length ≤ 4096 →
    (m.writeBytes a bs).read a' =
      if h : a ≤ a' ∧ a' < a + bs.length then bs[a' - a]'(by omega) else m.read a'
  | [], m, a, a', _, _ => by
    rw [dif_neg (by simp)]; rfl
  | b :: bs, m, a, a', hm, h => by
    simp only [List.length_cons] at h
    unfold Memory.writeBytes
    rw [Memory.read_writeBytes bs _ _ _ (Memory.wf_write b hm (by omega)) (by omega)]
    have hw := Memory.read_write_from a a' b m hm
    by_cases h1 : a' = a
    · subst h1
      rw [dif_neg (by omega), dif_pos (by simp), hw, if_pos rfl]
      simp
    · by_cases h2 : a + 1 ≤ a' ∧ a' < a + 1 + bs.length
      · rw [dif_pos h2, dif_pos (by simp only [List.length_cons]; omega)]
        have e : a' - a = (a' - (a + 1)) + 1 := by omega
        simp only [e, List.getElem_cons_succ]
      · rw [dif_neg h2, dif_neg (by simp only [List.length_cons]; omega), hw, if_neg h1]

/-- Reading `n` bytes lists the byte at each address of the range. -/
theorem Memory.length_readBytes (m : Memory) : ∀ n a, (m.readBytes a n).length = n
  | 0, _ => rfl
  | n + 1, a => by simp [Memory.readBytes, Memory.length_readBytes m n]

theorem Memory.getElem_readBytes (m : Memory) : ∀ (n a k : Nat) (h : k < (m.readBytes a n).length),
    (m.readBytes a n)[k] = m.read (a + k)
  | 0, _, _, h => absurd h (by simp [Memory.readBytes])
  | n + 1, a, 0, _ => rfl
  | n + 1, a, k + 1, h => by
    have := Memory.getElem_readBytes m n (a + 1) k (by simpa [Memory.readBytes] using h)
    simp only [Memory.readBytes, List.getElem_cons_succ, this]
    congr 1; omega

/-- `OOR(lo, hi)` finds no address exactly when the access ends below 4096. -/
theorem outOfRange_eq_none {lo hi : Nat} : outOfRange lo hi = none ↔ hi < 4096 := by
  unfold outOfRange memSize; split <;> simp <;> omega

theorem outOfRange_eq_some {lo hi a : Nat} :
    outOfRange lo hi = some a ↔ 4096 ≤ hi ∧ a = max lo 4096 := by
  unfold outOfRange memSize; split
  · simp [eq_comm]; omega
  · simp; omega

end Sys2Proof.Machine
end

