-- ==== Sys2Proof/Laws/State.lean ====
section
/-! SUPPORT. One lemma per field per update of the state, each true by unfolding the update once, so that no later proof unfolds it. -/

namespace Sys2Proof.Machine

/-! ### State.setV -/

@[simp] theorem State.setV_mem (s : State) (x : Reg) (b : Byte) : (s.setV x b).mem = s.mem := rfl
@[simp] theorem State.setV_v (s : State) (x : Reg) (b : Byte) : (s.setV x b).v = s.v.set x b := rfl
@[simp] theorem State.setV_i (s : State) (x : Reg) (b : Byte) : (s.setV x b).i = s.i := rfl
@[simp] theorem State.setV_pc (s : State) (x : Reg) (b : Byte) : (s.setV x b).pc = s.pc := rfl
@[simp] theorem State.setV_sp (s : State) (x : Reg) (b : Byte) : (s.setV x b).sp = s.sp := rfl
@[simp] theorem State.setV_stack (s : State) (x : Reg) (b : Byte) : (s.setV x b).stack = s.stack := rfl
@[simp] theorem State.setV_dt (s : State) (x : Reg) (b : Byte) : (s.setV x b).dt = s.dt := rfl
@[simp] theorem State.setV_st (s : State) (x : Reg) (b : Byte) : (s.setV x b).st = s.st := rfl
@[simp] theorem State.setV_disp (s : State) (x : Reg) (b : Byte) : (s.setV x b).disp = s.disp := rfl
@[simp] theorem State.setV_fault (s : State) (x : Reg) (b : Byte) : (s.setV x b).fault = s.fault := rfl
@[simp] theorem State.setV_cfg (s : State) (x : Reg) (b : Byte) : (s.setV x b).cfg = s.cfg := rfl
@[simp] theorem State.setV_inputs (s : State) (x : Reg) (b : Byte) : (s.setV x b).inputs = s.inputs := rfl
@[simp] theorem State.setV_draws (s : State) (x : Reg) (b : Byte) : (s.setV x b).draws = s.draws := rfl
@[simp] theorem State.setV_status (s : State) (x : Reg) (b : Byte) : (s.setV x b).status = s.status := rfl
@[simp] theorem State.setV_sound (s : State) (x : Reg) (b : Byte) : (s.setV x b).sound = s.sound := rfl

/-! ### State.retire -/

@[simp] theorem State.retire_mem (s : State) (w : Word) : (s.retire w).mem = s.mem := rfl
@[simp] theorem State.retire_v (s : State) (w : Word) : (s.retire w).v = s.v := rfl
@[simp] theorem State.retire_i (s : State) (w : Word) : (s.retire w).i = s.i := rfl
@[simp] theorem State.retire_pc (s : State) (w : Word) : (s.retire w).pc = w := rfl
@[simp] theorem State.retire_sp (s : State) (w : Word) : (s.retire w).sp = s.sp := rfl
@[simp] theorem State.retire_stack (s : State) (w : Word) : (s.retire w).stack = s.stack := rfl
@[simp] theorem State.retire_dt (s : State) (w : Word) : (s.retire w).dt = s.dt := rfl
@[simp] theorem State.retire_st (s : State) (w : Word) : (s.retire w).st = s.st := rfl
@[simp] theorem State.retire_disp (s : State) (w : Word) : (s.retire w).disp = s.disp := rfl
@[simp] theorem State.retire_fault (s : State) (w : Word) : (s.retire w).fault = s.fault := rfl
@[simp] theorem State.retire_cfg (s : State) (w : Word) : (s.retire w).cfg = s.cfg := rfl
@[simp] theorem State.retire_inputs (s : State) (w : Word) : (s.retire w).inputs = s.inputs := rfl
@[simp] theorem State.retire_draws (s : State) (w : Word) : (s.retire w).draws = s.draws := rfl
@[simp] theorem State.retire_status (s : State) (w : Word) : (s.retire w).status = .retired := rfl
@[simp] theorem State.retire_sound (s : State) (w : Word) : (s.retire w).sound = s.sound := rfl

/-! ### State.retireNext -/

@[simp] theorem State.retireNext_mem (s : State) : (s.retireNext).mem = s.mem := rfl
@[simp] theorem State.retireNext_v (s : State) : (s.retireNext).v = s.v := rfl
@[simp] theorem State.retireNext_i (s : State) : (s.retireNext).i = s.i := rfl
@[simp] theorem State.retireNext_pc (s : State) : (s.retireNext).pc = s.pc + 2 := rfl
@[simp] theorem State.retireNext_sp (s : State) : (s.retireNext).sp = s.sp := rfl
@[simp] theorem State.retireNext_stack (s : State) : (s.retireNext).stack = s.stack := rfl
@[simp] theorem State.retireNext_dt (s : State) : (s.retireNext).dt = s.dt := rfl
@[simp] theorem State.retireNext_st (s : State) : (s.retireNext).st = s.st := rfl
@[simp] theorem State.retireNext_disp (s : State) : (s.retireNext).disp = s.disp := rfl
@[simp] theorem State.retireNext_fault (s : State) : (s.retireNext).fault = s.fault := rfl
@[simp] theorem State.retireNext_cfg (s : State) : (s.retireNext).cfg = s.cfg := rfl
@[simp] theorem State.retireNext_inputs (s : State) : (s.retireNext).inputs = s.inputs := rfl
@[simp] theorem State.retireNext_draws (s : State) : (s.retireNext).draws = s.draws := rfl
@[simp] theorem State.retireNext_status (s : State) : (s.retireNext).status = .retired := rfl
@[simp] theorem State.retireNext_sound (s : State) : (s.retireNext).sound = s.sound := rfl

/-! ### State.skipIf -/

@[simp] theorem State.skipIf_mem (s : State) (c : Bool) : (s.skipIf c).mem = s.mem := rfl
@[simp] theorem State.skipIf_v (s : State) (c : Bool) : (s.skipIf c).v = s.v := rfl
@[simp] theorem State.skipIf_i (s : State) (c : Bool) : (s.skipIf c).i = s.i := rfl
@[simp] theorem State.skipIf_pc (s : State) (c : Bool) : (s.skipIf c).pc = (if c then s.pc + 4 else s.pc + 2) := rfl
@[simp] theorem State.skipIf_sp (s : State) (c : Bool) : (s.skipIf c).sp = s.sp := rfl
@[simp] theorem State.skipIf_stack (s : State) (c : Bool) : (s.skipIf c).stack = s.stack := rfl
@[simp] theorem State.skipIf_dt (s : State) (c : Bool) : (s.skipIf c).dt = s.dt := rfl
@[simp] theorem State.skipIf_st (s : State) (c : Bool) : (s.skipIf c).st = s.st := rfl
@[simp] theorem State.skipIf_disp (s : State) (c : Bool) : (s.skipIf c).disp = s.disp := rfl
@[simp] theorem State.skipIf_fault (s : State) (c : Bool) : (s.skipIf c).fault = s.fault := rfl
@[simp] theorem State.skipIf_cfg (s : State) (c : Bool) : (s.skipIf c).cfg = s.cfg := rfl
@[simp] theorem State.skipIf_inputs (s : State) (c : Bool) : (s.skipIf c).inputs = s.inputs := rfl
@[simp] theorem State.skipIf_draws (s : State) (c : Bool) : (s.skipIf c).draws = s.draws := rfl
@[simp] theorem State.skipIf_status (s : State) (c : Bool) : (s.skipIf c).status = .retired := rfl
@[simp] theorem State.skipIf_sound (s : State) (c : Bool) : (s.skipIf c).sound = s.sound := rfl

/-! ### State.park -/

@[simp] theorem State.park_mem (s : State) : (s.park).mem = s.mem := rfl
@[simp] theorem State.park_v (s : State) : (s.park).v = s.v := rfl
@[simp] theorem State.park_i (s : State) : (s.park).i = s.i := rfl
@[simp] theorem State.park_pc (s : State) : (s.park).pc = s.pc := rfl
@[simp] theorem State.park_sp (s : State) : (s.park).sp = s.sp := rfl
@[simp] theorem State.park_stack (s : State) : (s.park).stack = s.stack := rfl
@[simp] theorem State.park_dt (s : State) : (s.park).dt = s.dt := rfl
@[simp] theorem State.park_st (s : State) : (s.park).st = s.st := rfl
@[simp] theorem State.park_disp (s : State) : (s.park).disp = s.disp := rfl
@[simp] theorem State.park_fault (s : State) : (s.park).fault = s.fault := rfl
@[simp] theorem State.park_cfg (s : State) : (s.park).cfg = s.cfg := rfl
@[simp] theorem State.park_inputs (s : State) : (s.park).inputs = s.inputs := rfl
@[simp] theorem State.park_draws (s : State) : (s.park).draws = s.draws := rfl
@[simp] theorem State.park_status (s : State) : (s.park).status = .parked := rfl
@[simp] theorem State.park_sound (s : State) : (s.park).sound = s.sound := rfl

/-! ### State.raise -/

@[simp] theorem State.raise_mem (s : State) (k : FaultKind) (op : Option Word) (a : Option Nat) : (s.raise k op a).mem = s.mem := rfl
@[simp] theorem State.raise_v (s : State) (k : FaultKind) (op : Option Word) (a : Option Nat) : (s.raise k op a).v = s.v := rfl
@[simp] theorem State.raise_i (s : State) (k : FaultKind) (op : Option Word) (a : Option Nat) : (s.raise k op a).i = s.i := rfl
@[simp] theorem State.raise_pc (s : State) (k : FaultKind) (op : Option Word) (a : Option Nat) : (s.raise k op a).pc = s.pc := rfl
@[simp] theorem State.raise_sp (s : State) (k : FaultKind) (op : Option Word) (a : Option Nat) : (s.raise k op a).sp = s.sp := rfl
@[simp] theorem State.raise_stack (s : State) (k : FaultKind) (op : Option Word) (a : Option Nat) : (s.raise k op a).stack = s.stack := rfl
@[simp] theorem State.raise_dt (s : State) (k : FaultKind) (op : Option Word) (a : Option Nat) : (s.raise k op a).dt = s.dt := rfl
@[simp] theorem State.raise_st (s : State) (k : FaultKind) (op : Option Word) (a : Option Nat) : (s.raise k op a).st = s.st := rfl
@[simp] theorem State.raise_disp (s : State) (k : FaultKind) (op : Option Word) (a : Option Nat) : (s.raise k op a).disp = s.disp := rfl
@[simp] theorem State.raise_fault (s : State) (k : FaultKind) (op : Option Word) (a : Option Nat) : (s.raise k op a).fault = some { kind := k, pc := s.pc, opcode := op, addr := a } := rfl
@[simp] theorem State.raise_cfg (s : State) (k : FaultKind) (op : Option Word) (a : Option Nat) : (s.raise k op a).cfg = s.cfg := rfl
@[simp] theorem State.raise_inputs (s : State) (k : FaultKind) (op : Option Word) (a : Option Nat) : (s.raise k op a).inputs = s.inputs := rfl
@[simp] theorem State.raise_draws (s : State) (k : FaultKind) (op : Option Word) (a : Option Nat) : (s.raise k op a).draws = s.draws := rfl
@[simp] theorem State.raise_status (s : State) (k : FaultKind) (op : Option Word) (a : Option Nat) : (s.raise k op a).status = .faulted { kind := k, pc := s.pc, opcode := op, addr := a } := rfl
@[simp] theorem State.raise_sound (s : State) (k : FaultKind) (op : Option Word) (a : Option Nat) : (s.raise k op a).sound = false := rfl

/-! ### State.reportFault -/

@[simp] theorem State.reportFault_mem (s : State) (r : FaultRecord) : (s.reportFault r).mem = s.mem := rfl
@[simp] theorem State.reportFault_v (s : State) (r : FaultRecord) : (s.reportFault r).v = s.v := rfl
@[simp] theorem State.reportFault_i (s : State) (r : FaultRecord) : (s.reportFault r).i = s.i := rfl
@[simp] theorem State.reportFault_pc (s : State) (r : FaultRecord) : (s.reportFault r).pc = s.pc := rfl
@[simp] theorem State.reportFault_sp (s : State) (r : FaultRecord) : (s.reportFault r).sp = s.sp := rfl
@[simp] theorem State.reportFault_stack (s : State) (r : FaultRecord) : (s.reportFault r).stack = s.stack := rfl
@[simp] theorem State.reportFault_dt (s : State) (r : FaultRecord) : (s.reportFault r).dt = s.dt := rfl
@[simp] theorem State.reportFault_st (s : State) (r : FaultRecord) : (s.reportFault r).st = s.st := rfl
@[simp] theorem State.reportFault_disp (s : State) (r : FaultRecord) : (s.reportFault r).disp = s.disp := rfl
@[simp] theorem State.reportFault_fault (s : State) (r : FaultRecord) : (s.reportFault r).fault = s.fault := rfl
@[simp] theorem State.reportFault_cfg (s : State) (r : FaultRecord) : (s.reportFault r).cfg = s.cfg := rfl
@[simp] theorem State.reportFault_inputs (s : State) (r : FaultRecord) : (s.reportFault r).inputs = s.inputs := rfl
@[simp] theorem State.reportFault_draws (s : State) (r : FaultRecord) : (s.reportFault r).draws = s.draws := rfl
@[simp] theorem State.reportFault_status (s : State) (r : FaultRecord) : (s.reportFault r).status = .faulted r := rfl
@[simp] theorem State.reportFault_sound (s : State) (r : FaultRecord) : (s.reportFault r).sound = false := rfl

/-! ### State.push -/

@[simp] theorem State.push_mem (s : State) (w : Word) (h : s.sp.val < 16) : (s.push w h).mem = s.mem := rfl
@[simp] theorem State.push_v (s : State) (w : Word) (h : s.sp.val < 16) : (s.push w h).v = s.v := rfl
@[simp] theorem State.push_i (s : State) (w : Word) (h : s.sp.val < 16) : (s.push w h).i = s.i := rfl
@[simp] theorem State.push_pc (s : State) (w : Word) (h : s.sp.val < 16) : (s.push w h).pc = s.pc := rfl
@[simp] theorem State.push_sp (s : State) (w : Word) (h : s.sp.val < 16) : (s.push w h).sp = ⟨s.sp.val + 1, by omega⟩ := rfl
@[simp] theorem State.push_stack (s : State) (w : Word) (h : s.sp.val < 16) : (s.push w h).stack = s.stack.set s.sp.val w := rfl
@[simp] theorem State.push_dt (s : State) (w : Word) (h : s.sp.val < 16) : (s.push w h).dt = s.dt := rfl
@[simp] theorem State.push_st (s : State) (w : Word) (h : s.sp.val < 16) : (s.push w h).st = s.st := rfl
@[simp] theorem State.push_disp (s : State) (w : Word) (h : s.sp.val < 16) : (s.push w h).disp = s.disp := rfl
@[simp] theorem State.push_fault (s : State) (w : Word) (h : s.sp.val < 16) : (s.push w h).fault = s.fault := rfl
@[simp] theorem State.push_cfg (s : State) (w : Word) (h : s.sp.val < 16) : (s.push w h).cfg = s.cfg := rfl
@[simp] theorem State.push_inputs (s : State) (w : Word) (h : s.sp.val < 16) : (s.push w h).inputs = s.inputs := rfl
@[simp] theorem State.push_draws (s : State) (w : Word) (h : s.sp.val < 16) : (s.push w h).draws = s.draws := rfl
@[simp] theorem State.push_status (s : State) (w : Word) (h : s.sp.val < 16) : (s.push w h).status = s.status := rfl
@[simp] theorem State.push_sound (s : State) (w : Word) (h : s.sp.val < 16) : (s.push w h).sound = s.sound := rfl

/-! ### State.pop -/

@[simp] theorem State.pop_mem (s : State) : (s.pop).mem = s.mem := rfl
@[simp] theorem State.pop_v (s : State) : (s.pop).v = s.v := rfl
@[simp] theorem State.pop_i (s : State) : (s.pop).i = s.i := rfl
@[simp] theorem State.pop_pc (s : State) : (s.pop).pc = s.pc := rfl
@[simp] theorem State.pop_sp (s : State) : (s.pop).sp = ⟨s.sp.val - 1, by omega⟩ := rfl
@[simp] theorem State.pop_stack (s : State) : (s.pop).stack = s.stack := rfl
@[simp] theorem State.pop_dt (s : State) : (s.pop).dt = s.dt := rfl
@[simp] theorem State.pop_st (s : State) : (s.pop).st = s.st := rfl
@[simp] theorem State.pop_disp (s : State) : (s.pop).disp = s.disp := rfl
@[simp] theorem State.pop_fault (s : State) : (s.pop).fault = s.fault := rfl
@[simp] theorem State.pop_cfg (s : State) : (s.pop).cfg = s.cfg := rfl
@[simp] theorem State.pop_inputs (s : State) : (s.pop).inputs = s.inputs := rfl
@[simp] theorem State.pop_draws (s : State) : (s.pop).draws = s.draws := rfl
@[simp] theorem State.pop_status (s : State) : (s.pop).status = s.status := rfl
@[simp] theorem State.pop_sound (s : State) : (s.pop).sound = s.sound := rfl

/-! ### State.tick -/

@[simp] theorem State.tick_mem (s : State) : (s.tick).mem = s.mem := rfl
@[simp] theorem State.tick_v (s : State) : (s.tick).v = s.v := rfl
@[simp] theorem State.tick_i (s : State) : (s.tick).i = s.i := rfl
@[simp] theorem State.tick_pc (s : State) : (s.tick).pc = s.pc := rfl
@[simp] theorem State.tick_sp (s : State) : (s.tick).sp = s.sp := rfl
@[simp] theorem State.tick_stack (s : State) : (s.tick).stack = s.stack := rfl
@[simp] theorem State.tick_dt (s : State) : (s.tick).dt = countDown s.dt := rfl
@[simp] theorem State.tick_st (s : State) : (s.tick).st = countDown s.st := rfl
@[simp] theorem State.tick_disp (s : State) : (s.tick).disp = s.disp := rfl
@[simp] theorem State.tick_fault (s : State) : (s.tick).fault = s.fault := rfl
@[simp] theorem State.tick_cfg (s : State) : (s.tick).cfg = s.cfg := rfl
@[simp] theorem State.tick_inputs (s : State) : (s.tick).inputs = s.inputs := rfl
@[simp] theorem State.tick_draws (s : State) : (s.tick).draws = s.draws := rfl
@[simp] theorem State.tick_status (s : State) : (s.tick).status = s.status := rfl
@[simp] theorem State.tick_sound (s : State) : (s.tick).sound = decide (s.st.toNat > 0) := rfl

/-! ### loadFontset -/

@[simp] theorem loadFontset_mem (s : State) : (loadFontset s).mem = s.mem.writeBytes fontBase s.cfg.font.toList := rfl
@[simp] theorem loadFontset_v (s : State) : (loadFontset s).v = s.v := rfl
@[simp] theorem loadFontset_i (s : State) : (loadFontset s).i = s.i := rfl
@[simp] theorem loadFontset_pc (s : State) : (loadFontset s).pc = s.pc := rfl
@[simp] theorem loadFontset_sp (s : State) : (loadFontset s).sp = s.sp := rfl
@[simp] theorem loadFontset_stack (s : State) : (loadFontset s).stack = s.stack := rfl
@[simp] theorem loadFontset_dt (s : State) : (loadFontset s).dt = s.dt := rfl
@[simp] theorem loadFontset_st (s : State) : (loadFontset s).st = s.st := rfl
@[simp] theorem loadFontset_disp (s : State) : (loadFontset s).disp = s.disp := rfl
@[simp] theorem loadFontset_fault (s : State) : (loadFontset s).fault = s.fault := rfl
@[simp] theorem loadFontset_cfg (s : State) : (loadFontset s).cfg = s.cfg := rfl
@[simp] theorem loadFontset_inputs (s : State) : (loadFontset s).inputs = s.inputs := rfl
@[simp] theorem loadFontset_draws (s : State) : (loadFontset s).draws = s.draws := rfl
@[simp] theorem loadFontset_status (s : State) : (loadFontset s).status = s.status := rfl
@[simp] theorem loadFontset_sound (s : State) : (loadFontset s).sound = s.sound := rfl

/-! ### State.nextInput -/

@[simp] theorem State.nextInput_mem (s : State) : s.nextInput.mem = s.mem := by
  unfold State.nextInput; split <;> rfl
@[simp] theorem State.nextInput_v (s : State) : s.nextInput.v = s.v := by
  unfold State.nextInput; split <;> rfl
@[simp] theorem State.nextInput_i (s : State) : s.nextInput.i = s.i := by
  unfold State.nextInput; split <;> rfl
@[simp] theorem State.nextInput_pc (s : State) : s.nextInput.pc = s.pc := by
  unfold State.nextInput; split <;> rfl
@[simp] theorem State.nextInput_sp (s : State) : s.nextInput.sp = s.sp := by
  unfold State.nextInput; split <;> rfl
@[simp] theorem State.nextInput_stack (s : State) : s.nextInput.stack = s.stack := by
  unfold State.nextInput; split <;> rfl
@[simp] theorem State.nextInput_dt (s : State) : s.nextInput.dt = s.dt := by
  unfold State.nextInput; split <;> rfl
@[simp] theorem State.nextInput_st (s : State) : s.nextInput.st = s.st := by
  unfold State.nextInput; split <;> rfl
@[simp] theorem State.nextInput_disp (s : State) : s.nextInput.disp = s.disp := by
  unfold State.nextInput; split <;> rfl
@[simp] theorem State.nextInput_fault (s : State) : s.nextInput.fault = s.fault := by
  unfold State.nextInput; split <;> rfl
@[simp] theorem State.nextInput_cfg (s : State) : s.nextInput.cfg = s.cfg := by
  unfold State.nextInput; split <;> rfl
@[simp] theorem State.nextInput_status (s : State) : s.nextInput.status = s.status := by
  unfold State.nextInput; split <;> rfl
@[simp] theorem State.nextInput_sound (s : State) : s.nextInput.sound = s.sound := by
  unfold State.nextInput; split <;> rfl

theorem State.nextInput_of_scheduled (s : State) (inp : StepInput) (rest : List StepInput)
    (h : s.inputs = inp :: rest) : s.nextInput = { s with inputs := rest } := by
  unfold State.nextInput; split
  · rename_i h'; rw [h] at h'; cases h'; rfl
  · rename_i h'; rw [h] at h'; cases h'

theorem State.nextInput_of_none (s : State) (h : s.inputs = []) :
    s.nextInput = { s with draws := s.draws + 1 } := by
  unfold State.nextInput; split
  · rename_i h'; rw [h] at h'; cases h'
  · rfl

/-! ### State.construct -/

@[simp] theorem State.construct_mem (c : Config) : (State.construct c).mem = [] := rfl
@[simp] theorem State.construct_v (c : Config) : (State.construct c).v = Vector.replicate 16 0 := rfl
@[simp] theorem State.construct_i (c : Config) : (State.construct c).i = 0 := rfl
@[simp] theorem State.construct_pc (c : Config) : (State.construct c).pc = 0x200 := rfl
@[simp] theorem State.construct_sp (c : Config) : (State.construct c).sp = 0 := rfl
@[simp] theorem State.construct_stack (c : Config) : (State.construct c).stack = Vector.replicate 16 0 := rfl
@[simp] theorem State.construct_dt (c : Config) : (State.construct c).dt = 0 := rfl
@[simp] theorem State.construct_st (c : Config) : (State.construct c).st = 0 := rfl
@[simp] theorem State.construct_disp (c : Config) : (State.construct c).disp = Display.blank := rfl
@[simp] theorem State.construct_fault (c : Config) : (State.construct c).fault = none := rfl
@[simp] theorem State.construct_cfg (c : Config) : (State.construct c).cfg = c := rfl
@[simp] theorem State.construct_inputs (c : Config) : (State.construct c).inputs = [] := rfl
@[simp] theorem State.construct_draws (c : Config) : (State.construct c).draws = 0 := rfl
@[simp] theorem State.construct_status (c : Config) : (State.construct c).status = .notStarted := rfl
@[simp] theorem State.construct_sound (c : Config) : (State.construct c).sound = false := rfl

end Sys2Proof.Machine
end

