-- ==== Sys2Proof/Laws/Ops.lean ====
section
/-! SUPPORT. What each shared operation over registers, checks, timers and inputs can do, said once. -/

namespace Sys2Proof.Machine

/-! ## Registers -/

/-- Reading a register after writing one. -/
theorem State.setV_get (s : State) (x r : Reg) (b : Byte) :
    (s.setV x b).v[r] = if r = x then b else s.v[r] := by
  simp only [State.setV_v, Fin.getElem_fin, Vector.getElem_set]
  by_cases h : r = x
  · subst h; simp
  · rw [if_neg h, if_neg (fun e => h (Fin.ext e.symm))]

theorem State.reg_eq (s : State) (x : Reg) : s.reg x = s.v[x] := rfl

/-- A flagged result: Vx holds the result, VF the flag unless x = 0xF, every other register its old
value. -/
theorem State.retireFlagged_get (s : State) (x r : Reg) (c : Bool) (b : Byte) :
    (s.retireFlagged x c b).v[r] = if r = x then b else if r = vf then flagByte c else s.v[r] := by
  simp only [State.retireFlagged, State.retireNext_v]
  rw [State.setV_get, State.setV_get]

@[simp] theorem flagByte_toNat (c : Bool) : (flagByte c).toNat = if c = true then 1 else 0 := by
  cases c <;> rfl

/-- The bit 8xy6 moves out, as a remainder (R138). -/
theorem lowBit_eq (c : Byte) : lowBit c = decide (c.toNat % 2 = 1) := by
  show c.toNat.testBit 0 = _
  rw [Nat.testBit_zero]

/-- The bit 8xyE moves out, as a quotient (R140). -/
theorem highBit_eq (c : Byte) : highBit c = decide (c.toNat / 128 = 1) := by
  have := c.isLt
  show c.toNat.testBit 7 = _
  rw [Nat.testBit_eq_decide_div_mod_eq, decide_eq_decide]
  omega

/-- I after Fx55 and Fx65, as an integer (R174, R175). -/
theorem State.indexAfter_toNat (s : State) (x : Reg) :
    (s.indexAfter x).toNat =
      if s.cfg.ldstIncI = true then (s.i.toNat + x.val + 1) % 65536 else s.i.toNat := by
  unfold State.indexAfter
  split
  · simp; omega
  · rfl

/-- The pc after a conditional skip, as an integer (R92). -/
theorem State.skipIf_pc_toNat (s : State) (c : Bool) :
    (s.skipIf c).pc.toNat = (s.pc.toNat + if c = true then 4 else 2) % 65536 := by
  show (if c then s.pc + 4 else s.pc + 2).toNat = _
  cases c <;> simp [BitVec.toNat_add]

/-- The registers after Fx65's transfer. -/
theorem State.loadRegsFrom_get (s : State) (a : Nat) (x k : Reg) :
    (s.loadRegsFrom a x)[k] = if k ≤ x then s.mem.read (a + k.val) else s.v[k] := by
  simp [State.loadRegsFrom]

@[simp] theorem State.regsThrough_length (s : State) (x : Reg) :
    (s.regsThrough x).length = x.val + 1 := by
  simp [State.regsThrough]

theorem State.regsThrough_get (s : State) (x : Reg) (k : Nat) (h : k < (s.regsThrough x).length) :
    (s.regsThrough x)[k] = s.v[k]'(by have := x.isLt; simp at h; omega) := by
  simp [State.regsThrough]

/-- The shift source is V[x] or V[y] as `SHIFT_SRC` says (R138, R140). -/
theorem State.shiftSource_eq (s : State) (x y : Reg) :
    s.shiftSource x y = match s.cfg.shiftSrc with
      | .vx => s.v[x]
      | .vy => s.v[y] := by
  unfold State.shiftSource
  split
  · rename_i h; subst h; cases s.cfg.shiftSrc <;> rfl
  · cases s.cfg.shiftSrc <;> rfl

/-! ## Access checks -/

/-- An access check either passes or raises `AddressOutOfRange` at the address found. -/
theorem State.checked_cases (s : State) (op : Word) (bad : Option Nat) (done : State) :
    (bad = none ∧ s.checked op bad done = done) ∨
    (∃ a, bad = some a ∧ s.checked op bad done = s.raise .addressOutOfRange (some op) (some a)) := by
  cases bad with
  | none => exact .inl ⟨rfl, rfl⟩
  | some a => exact .inr ⟨a, rfl, rfl⟩

@[simp] theorem State.checked_none (s : State) (op : Word) (done : State) :
    s.checked op none done = done := rfl

@[simp] theorem State.checked_some (s : State) (op : Word) (a : Nat) (done : State) :
    s.checked op (some a) done = s.raise .addressOutOfRange (some op) (some a) := rfl

theorem State.indexedCheck_of_lt (s : State) (last : Nat) (h : s.i.toNat + last < 4096) :
    s.indexedCheck last = none := outOfRange_eq_none.mpr h

theorem State.indexedCheck_of_ge (s : State) (last : Nat) (h : 4096 ≤ s.i.toNat + last) :
    s.indexedCheck last = some (max s.i.toNat 4096) := outOfRange_eq_some.mpr ⟨h, rfl⟩

theorem State.spriteCheck_of_lt (s : State) (n : Fin 16) (h : n.val = 0 ∨ s.i.toNat + n.val ≤ 4096) :
    s.spriteCheck n = none := by
  unfold State.spriteCheck
  split
  · rfl
  · exact s.indexedCheck_of_lt _ (by omega)

theorem State.spriteCheck_of_ge (s : State) (n : Fin 16) (hn : n.val ≠ 0)
    (h : 4096 < s.i.toNat + n.val) : s.spriteCheck n = some (max s.i.toNat 4096) := by
  unfold State.spriteCheck
  rw [if_neg hn]
  exact s.indexedCheck_of_ge _ (by omega)

/-! ## Timers and inputs -/

/-- A timer loses one and stops at 0 (R90). -/
@[simp] theorem countDown_toNat (t : Byte) : (countDown t).toNat = t.toNat - 1 := by
  have := t.isLt
  unfold countDown
  split
  · rw [BitVec.toNat_sub]; simp; omega
  · omega

theorem State.input_of_scheduled (s : State) (inp : StepInput) (rest : List StepInput)
    (h : s.inputs = inp :: rest) : s.input = inp := by
  unfold State.input; rw [h]

/-- The lowest pressed key: it is pressed and no lower one is (R222). -/
theorem State.lowestKey_eq_some (s : State) (k : Fin 16) :
    s.lowestKey = some k ↔ s.input.keys[k] = true ∧ ∀ j : Fin 16, j < k → s.input.keys[j] = false := by
  have key : ∀ p : Fin 16 → Bool, (List.finRange 16).find? p = some k ↔
      p k = true ∧ ∀ j : Fin 16, j < k → p j = false := by
    intro p
    rw [List.find?_eq_some_iff_getElem]
    constructor
    · rintro ⟨hp, i, hi, hk, hlow⟩
      simp only [List.getElem_finRange] at hk
      refine ⟨hp, fun j hj => ?_⟩
      have hji : j.val < i := by
        have := congrArg Fin.val hk; simp at this; have hj' : j.val < k.val := hj; omega
      have := hlow j.val hji
      simpa using this
    · rintro ⟨hp, hlow⟩
      refine ⟨hp, k.val, by simp, by simp, fun j hj => ?_⟩
      have hj16 : j < 16 := by omega
      have := hlow ⟨j, hj16⟩ hj
      simpa using this
  exact key _

theorem State.lowestKey_eq_none (s : State) :
    s.lowestKey = none ↔ ∀ k : Fin 16, s.input.keys[k] = false := by
  simp [State.lowestKey, List.find?_eq_none]

/-! ## After the execute phase -/

/-- A step whose execute phase faulted is over; any other ticks and uses up its inputs (R85, R90). -/
theorem State.afterExecute_cases (t : State) :
    (∃ r, t.fault = some r ∧ t.afterExecute = t) ∨
    (t.fault = none ∧ t.afterExecute = t.tick.nextInput) := by
  unfold State.afterExecute
  cases h : t.fault with
  | none => exact .inr ⟨rfl, rfl⟩
  | some r => exact .inl ⟨r, rfl, rfl⟩

end Sys2Proof.Machine
end

