-- ==== Sys2Proof/Laws/Display.lean ====
section
/-! SUPPORT. Reading a pixel after the display operations, and what sprite rows and a whole sprite do to the pixels and the collision flag. -/

namespace Sys2Proof.Machine

@[simp] theorem Display.pixel_blank (px : Fin 64) (py : Fin 32) : Display.blank.pixel px py = false := by
  simp [Display.blank, Display.pixel]

/-- Toggling a pixel flips it and leaves every other one. -/
theorem Display.pixel_toggle (d : Display) (px qx : Fin 64) (py qy : Fin 32) :
    (d.toggle px py).pixel qx qy = (d.pixel qx qy ^^ (decide (qx = px) && decide (qy = py))) := by
  simp only [Display.toggle, Display.pixel, Fin.getElem_fin, Vector.getElem_set]
  by_cases hy : qy = py
  · subst hy
    by_cases hx : qx = px
    · subst hx; simp
    · have : ¬ (px.val = qx.val) := fun e => hx (Fin.ext e.symm)
      simp [hx, this]
  · have : ¬ (py.val = qy.val) := fun e => hy (Fin.ext e.symm)
    simp [hy, this]

/-- Displays with the same pixels are the same. -/
theorem Display.ext_pixel (d e : Display) (h : ∀ px py, d.pixel px py = e.pixel px py) : d = e := by
  apply Vector.ext
  intro py hpy
  apply Vector.ext
  intro px hpx
  exact h ⟨px, hpx⟩ ⟨py, hpy⟩

/-- The eight columns of a sprite row wrap to eight different columns (R201). -/
theorem wrapColumn_ne (cx : Byte) {a b : Nat} (ha : a < 8) (hb : b < 8) (h : a ≠ b) :
    wrapColumn cx a ≠ wrapColumn cx b := by
  intro e
  have e' : (cx.toNat + a) % 64 = (cx.toNat + b) % 64 := congrArg Fin.val e
  omega

/-- The rows of a sprite, fewer than 32, wrap to different rows (R201). -/
theorem wrapRow_ne (cy : Byte) {a b : Nat} (ha : a < 32) (hb : b < 32) (h : a ≠ b) :
    wrapRow cy a ≠ wrapRow cy b := by
  intro e
  have e' : (cy.toNat + a) % 32 = (cy.toNat + b) % 32 := congrArg Fin.val e
  omega

/-- Whether sprite byte `b` drawn from column `cx` lights column `px`. -/
def rowLights (cx : Byte) (b : Byte) (px : Fin 64) : Bool :=
  (List.range 8).any fun col => spriteBit b col && decide (px = wrapColumn cx col)

/-- Plotting some of the columns of a row, all wrapping to different columns. -/
theorem plotColumns_pixel (cx : Byte) (py : Fin 32) (b : Byte) (qx : Fin 64) (qy : Fin 32) :
    ∀ (cols : List Nat) (d : Drawing),
      cols.Pairwise (fun a c => wrapColumn cx a ≠ wrapColumn cx c) →
      (cols.foldl (fun d col => if spriteBit b col then d.plot (wrapColumn cx col) py else d) d).disp.pixel qx qy =
        (d.disp.pixel qx qy ^^
          (decide (qy = py) && cols.any fun col => spriteBit b col && decide (qx = wrapColumn cx col)))
  | [], d, _ => by simp
  | c :: cols, d, hp => by
    rw [List.pairwise_cons] at hp
    rw [List.foldl_cons, plotColumns_pixel cx py b qx qy cols _ hp.2, List.any_cons]
    by_cases hb : spriteBit b c = true
    · rw [if_pos hb, hb]
      simp only [Drawing.plot, Display.pixel_toggle, Bool.true_and]
      by_cases hx : qx = wrapColumn cx c
      · have none_else : (cols.any fun col => spriteBit b col && decide (qx = wrapColumn cx col)) = false := by
          rw [List.any_eq_false]
          intro col hcol
          have := hp.1 col hcol
          rw [← hx] at this
          simp [this]
        rw [none_else]
        simp [hx]
      · simp [hx]
    · simp [hb]

/-- The collision flag of plotting some of the columns of a row: a lit column's pixel was set before. -/
theorem plotColumns_hit (cx : Byte) (py : Fin 32) (b : Byte) :
    ∀ (cols : List Nat) (d : Drawing),
      cols.Pairwise (fun a c => wrapColumn cx a ≠ wrapColumn cx c) →
      (cols.foldl (fun d col => if spriteBit b col then d.plot (wrapColumn cx col) py else d) d).hit =
        (d.hit || cols.any fun col => spriteBit b col && d.disp.pixel (wrapColumn cx col) py)
  | [], d, _ => by simp
  | c :: cols, d, hp => by
    rw [List.pairwise_cons] at hp
    rw [List.foldl_cons, plotColumns_hit cx py b cols _ hp.2, List.any_cons]
    by_cases hb : spriteBit b c = true
    · rw [if_pos hb, hb]
      simp only [Drawing.plot, Bool.true_and, Bool.or_assoc]
      congr 2
      rw [Bool.eq_iff_iff, List.any_eq_true, List.any_eq_true]
      refine exists_congr fun col => and_congr_right fun hcol => ?_
      have hne : wrapColumn cx col ≠ wrapColumn cx c := fun e => hp.1 col hcol e.symm
      simp [Display.pixel_toggle, hne]
    · simp [hb]

theorem columns_pairwise (cx : Byte) :
    (List.range 8).Pairwise (fun a c => wrapColumn cx a ≠ wrapColumn cx c) :=
  (List.nodup_range (n := 8)).imp_of_mem fun ha hb h =>
    wrapColumn_ne cx (List.mem_range.mp ha) (List.mem_range.mp hb) h

/-- What one sprite row does to a pixel (R201). -/
theorem drawRow_pixel (cx : Byte) (py : Fin 32) (b : Byte) (d : Drawing) (qx : Fin 64) (qy : Fin 32) :
    (drawRow cx py b d).disp.pixel qx qy =
      (d.disp.pixel qx qy ^^ (decide (qy = py) && rowLights cx b qx)) :=
  plotColumns_pixel cx py b qx qy _ d (columns_pairwise cx)

/-- What one sprite row does to the collision flag (R201). -/
theorem drawRow_hit (cx : Byte) (py : Fin 32) (b : Byte) (d : Drawing) :
    (drawRow cx py b d).hit =
      (d.hit || (List.range 8).any fun col => spriteBit b col && d.disp.pixel (wrapColumn cx col) py) :=
  plotColumns_hit cx py b _ d (columns_pairwise cx)

/-- Which pixels the sprite bytes drawn from row `row` on light. -/
def rowsLight (cx cy : Byte) : Nat → List Byte → Fin 64 → Fin 32 → Bool
  | _, [], _, _ => false
  | row, b :: bs, px, py => (decide (py = wrapRow cy row) && rowLights cx b px) || rowsLight cx cy (row + 1) bs px py

/-- A pixel is lit by the row that wraps to it. -/
theorem rowsLight_iff (cx cy : Byte) : ∀ (bs : List Byte) (row : Nat) (px py), rowsLight cx cy row bs px py = true ↔ ∃ k b, bs[k]? = some b ∧ py = wrapRow cy (row + k) ∧ rowLights cx b px = true
  | [], row, px, py => by simp [rowsLight]
  | b :: bs, row, px, py => by
    simp only [rowsLight, Bool.or_eq_true, Bool.and_eq_true, decide_eq_true_eq, rowsLight_iff cx cy bs (row+1)]
    constructor
    · rintro (⟨h1, h2⟩ | ⟨k, c, h1, h2, h3⟩)
      · exact ⟨0, b, rfl, h1, h2⟩
      · exact ⟨k + 1, c, by simpa using h1, by rw [h2]; congr 1; omega, h3⟩
    · rintro ⟨k, c, h1, h2, h3⟩
      cases k with
      | zero => simp at h1; subst h1; exact .inl ⟨h2, h3⟩
      | succ k => exact .inr ⟨k, c, by simpa using h1, by rw [h2]; congr 1; omega, h3⟩

/-- Fewer than 32 rows: an earlier row's pixels are not lit again. -/
theorem rowsLight_other (cx cy : Byte) (bs : List Byte) (row r0 : Nat) (px) (h : r0 < row) (hl : row + bs.length ≤ 32) : rowsLight cx cy row bs px (wrapRow cy r0) = false := by
  rw [Bool.eq_false_iff, Ne, rowsLight_iff]
  rintro ⟨k, b, h1, h2, _⟩
  have hk : k < bs.length := by
    rcases Nat.lt_or_ge k bs.length with h | h
    · exact h
    · rw [List.getElem?_eq_none h] at h1; cases h1
  exact wrapRow_ne cy (by omega) (by omega) (by omega : r0 ≠ row + k) h2

/-- What the rows of a sprite do to a pixel (R201). -/
theorem drawRows_pixel (cx cy : Byte) (qx qy) : ∀ (bs : List Byte) (row : Nat) (d : Drawing), row + bs.length ≤ 32 →
    (drawRows cx cy row bs d).disp.pixel qx qy = (d.disp.pixel qx qy ^^ rowsLight cx cy row bs qx qy)
  | [], _, d, _ => by simp [drawRows, rowsLight]
  | b :: bs, row, d, h => by
    simp only [List.length_cons] at h
    rw [drawRows, drawRows_pixel cx cy qx qy bs (row+1) _ (by omega), drawRow_pixel, rowsLight]
    by_cases hq : qy = wrapRow cy row
    · subst hq; rw [rowsLight_other cx cy bs (row+1) row qx (by omega) (by omega)]; simp
    · simp [hq]

/-- The collision flag after the rows of a sprite: a lit pixel was set before (R201). -/
theorem drawRows_hit (cx cy : Byte) : ∀ (bs : List Byte) (row : Nat) (d : Drawing), row + bs.length ≤ 32 →
    ((drawRows cx cy row bs d).hit = true ↔ d.hit = true ∨ ∃ qx qy, rowsLight cx cy row bs qx qy = true ∧ d.disp.pixel qx qy = true)
  | [], _, d, _ => by simp [drawRows, rowsLight]
  | b :: bs, row, d, h => by
    simp only [List.length_cons] at h
    rw [drawRows, drawRows_hit cx cy bs (row+1) _ (by omega), drawRow_hit]
    simp only [Bool.or_eq_true, List.any_eq_true, Bool.and_eq_true, rowsLight, drawRow_pixel, decide_eq_true_eq]
    constructor
    · rintro ((h1 | ⟨c, hc, h2, h3⟩) | ⟨qx, qy, h1, h2⟩)
      · exact .inl h1
      · refine .inr ⟨wrapColumn cx c, wrapRow cy row, .inl ⟨rfl, ?_⟩, h3⟩
        simp only [rowLights, List.any_eq_true, Bool.and_eq_true, decide_eq_true_eq]; exact ⟨c, hc, h2, rfl⟩
      · refine .inr ⟨qx, qy, .inr h1, ?_⟩
        have : qy ≠ wrapRow cy row := by
          rintro rfl; rw [rowsLight_other cx cy bs (row+1) row qx (by omega) (by omega)] at h1; cases h1
        simpa [this] using h2
    · rintro (h1 | ⟨qx, qy, (⟨h1, h2⟩ | h1), h3⟩)
      · exact .inl (.inl h1)
      · subst h1; simp only [rowLights, List.any_eq_true, Bool.and_eq_true, decide_eq_true_eq] at h2
        obtain ⟨c, hc, h4, rfl⟩ := h2
        exact .inl (.inr ⟨c, hc, h4, h3⟩)
      · refine .inr ⟨qx, qy, h1, ?_⟩
        have : qy ≠ wrapRow cy row := by
          rintro rfl; rw [rowsLight_other cx cy bs (row+1) row qx (by omega) (by omega)] at h1; cases h1
        simpa [this] using h3

/-- A sprite bit as a quotient (R202). -/
theorem spriteBit_eq (b : Byte) (col : Nat) : spriteBit b col = decide (b.toNat / 2 ^ (7 - col) % 2 = 1) := by
  show b.toNat.testBit _ = _
  rw [Nat.testBit_eq_decide_div_mod_eq]

/-- A row's lit columns, as integers. -/
theorem rowLights_iff (cx b : Byte) (px : Fin 64) : rowLights cx b px = true ↔ ∃ col, col < 8 ∧ b.toNat / 2 ^ (7 - col) % 2 = 1 ∧ px.val = (cx.toNat + col) % 64 := by
  simp only [rowLights, List.any_eq_true, Bool.and_eq_true, decide_eq_true_eq, List.mem_range, spriteBit_eq, Fin.ext_iff]
  rfl

/-- The bytes at I light the pixels the rule names. -/
theorem State.sprite_iff (s : State) (x y : Reg) (n : Fin 16) (px : Fin 64) (py : Fin 32) :
    rowsLight (s.v[x]) (s.v[y]) 0 (s.mem.readBytes (s.indexed 0) n.val) px py = true ↔
      s.SpriteLights x y n px py := by
  rw [rowsLight_iff]
  unfold State.SpriteLights
  constructor
  · rintro ⟨k, b, h1, h2, h3⟩
    rw [rowLights_iff] at h3
    obtain ⟨col, h4, h5, h6⟩ := h3
    obtain ⟨hk, he⟩ := List.getElem?_eq_some_iff.mp h1
    rw [Memory.getElem_readBytes] at he
    rw [Memory.length_readBytes] at hk
    refine ⟨k, col, hk, h4, ?_, h6, ?_⟩
    · rw [← he] at h5; exact h5
    · rw [h2]; show (_ + (0 + k)) % 32 = _; rw [Nat.zero_add]
  · rintro ⟨k, col, hk, h4, h5, h6, h7⟩
    refine ⟨k, s.mem.read (s.i.toNat + k), ?_, ?_, ?_⟩
    · rw [List.getElem?_eq_some_iff]; refine ⟨by rw [Memory.length_readBytes]; exact hk, ?_⟩
      rw [Memory.getElem_readBytes]; rfl
    · apply Fin.ext; rw [h7]; show _ = (_ + (0 + k)) % 32; rw [Nat.zero_add]
    · rw [rowLights_iff]; exact ⟨col, h4, h5, h6⟩

/-- What Dxyn's loop does to a pixel (R201). -/
theorem State.drawSprite_pixel (s : State) (x y : Reg) (n : Fin 16) (qx : Fin 64) (qy : Fin 32) :
    (s.drawSprite x y n).disp.pixel qx qy =
      (s.disp.pixel qx qy ^^ rowsLight s.v[x] s.v[y] 0 (s.mem.readBytes (s.indexed 0) n.val) qx qy) := by
  unfold State.drawSprite; rw [drawRows_pixel]; rw [Memory.length_readBytes]; omega
/-- The collision flag of Dxyn's loop (R201). -/
theorem State.drawSprite_hit (s : State) (x y : Reg) (n : Fin 16) :
    (s.drawSprite x y n).hit = true ↔ ∃ qx qy, s.SpriteLights x y n qx qy ∧ s.disp.pixel qx qy = true := by
  unfold State.drawSprite; rw [drawRows_hit _ _ _ _ _ (by rw [Memory.length_readBytes]; omega)]
  simp only [State.sprite_iff, Bool.false_eq_true, false_or]

end Sys2Proof.Machine
end

