-- ==== Sys2Proof/Laws/Masks.lean ====
section
/-! SUPPORT. The opcode table's masks as arithmetic: what a word masked by a row's mask is worth. -/

namespace Sys2Proof

theorem and_F000 (w : Word) : w &&& 0xF000#16 = (w >>> 12) <<< 12 := by
  apply BitVec.eq_of_getLsbD_eq
  intro i hi
  interval_cases i <;> simp

theorem and_F0FF (w : Word) : w &&& 0xF0FF#16 = ((w >>> 12) <<< 12) ||| (w &&& 0xFF#16) := by
  apply BitVec.eq_of_getLsbD_eq
  intro i hi
  interval_cases i <;> simp

theorem and_F00F (w : Word) : w &&& 0xF00F#16 = ((w >>> 12) <<< 12) ||| (w &&& 0xF#16) := by
  apply BitVec.eq_of_getLsbD_eq
  intro i hi
  interval_cases i <;> simp

theorem family_toNat (w : Word) : ((w >>> 12) <<< 12).toNat = (w.toNat / 4096) <<< 12 := by
  have := w.isLt
  simp [Nat.shiftRight_eq_div_pow, Nat.shiftLeft_eq]; omega

theorem and_F000_toNat (w : Word) : (w &&& 0xF000#16).toNat = w.toNat / 4096 * 4096 := by
  rw [and_F000, family_toNat, Nat.shiftLeft_eq]

theorem and_F0FF_toNat (w : Word) : (w &&& 0xF0FF#16).toNat = w.toNat / 4096 * 4096 + w.toNat % 256 := by
  have h : (w &&& 0xFF#16).toNat = w.toNat % 256 := by
    simpa using Nat.and_two_pow_sub_one_eq_mod w.toNat 8
  rw [and_F0FF, BitVec.toNat_or, h, family_toNat, ← Nat.shiftLeft_add_eq_or_of_lt (by omega), Nat.shiftLeft_eq]

theorem and_F00F_toNat (w : Word) : (w &&& 0xF00F#16).toNat = w.toNat / 4096 * 4096 + w.toNat % 16 := by
  have h : (w &&& 0xF#16).toNat = w.toNat % 16 := by
    simpa using Nat.and_two_pow_sub_one_eq_mod w.toNat 4
  rw [and_F00F, BitVec.toNat_or, h, family_toNat, ← Nat.shiftLeft_add_eq_or_of_lt (by omega), Nat.shiftLeft_eq]

/-- Rows of mask 0xF000 cover the words of their family. -/
theorem covers_F000 (name : String) (bits w : Word) (h : w.toNat / 4096 * 4096 = bits.toNat) :
    OpRow.covers ⟨name, bits, 0xF000⟩ w = true :=
  beq_iff_eq.mpr (BitVec.eq_of_toNat_eq ((and_F000_toNat w).trans h))

/-- Rows of mask 0xF0FF cover the words of their family and selector byte. -/
theorem covers_F0FF (name : String) (bits w : Word)
    (h : w.toNat / 4096 * 4096 + w.toNat % 256 = bits.toNat) :
    OpRow.covers ⟨name, bits, 0xF0FF⟩ w = true :=
  beq_iff_eq.mpr (BitVec.eq_of_toNat_eq ((and_F0FF_toNat w).trans h))

/-- Rows of mask 0xF00F cover the words of their family and selector nibble. -/
theorem covers_F00F (name : String) (bits w : Word)
    (h : w.toNat / 4096 * 4096 + w.toNat % 16 = bits.toNat) :
    OpRow.covers ⟨name, bits, 0xF00F⟩ w = true :=
  beq_iff_eq.mpr (BitVec.eq_of_toNat_eq ((and_F00F_toNat w).trans h))

/-- A packed `NNN` word is covered by its family's row. -/
theorem covers_packNNN (name : String) (t : Nat) (nnn : Addr) (bits : Word) (ht : t < 16)
    (h : t * 4096 = bits.toNat) : OpRow.covers ⟨name, bits, 0xF000⟩ (packNNN t nnn) = true := by
  apply covers_F000
  have := nnn.isLt
  rw [packNNN_toNat t nnn ht, ← h]
  clear h; omega

/-- A packed `XKK` word is covered by its family's row. -/
theorem covers_packXKK (name : String) (t : Nat) (x : Reg) (kk : Byte) (bits : Word) (ht : t < 16)
    (h : t * 4096 = bits.toNat) : OpRow.covers ⟨name, bits, 0xF000⟩ (packXKK t x kk) = true := by
  apply covers_F000
  have := kk.isLt
  have := x.isLt
  rw [packXKK_toNat t x kk ht, ← h]
  clear h; omega

/-- A packed `XSS` word is covered by the row of its family and selector byte. -/
theorem covers_packXSS (name : String) (t : Nat) (x : Reg) (kk : Byte) (bits : Word) (ht : t < 16)
    (h : t * 4096 + kk.toNat = bits.toNat) : OpRow.covers ⟨name, bits, 0xF0FF⟩ (packXKK t x kk) = true := by
  apply covers_F0FF
  have := kk.isLt
  have := x.isLt
  rw [packXKK_toNat t x kk ht, ← h]
  clear h; omega

/-- A packed `XYS` word is covered by the row of its family and selector nibble. -/
theorem covers_packXYS (name : String) (t : Nat) (x y : Reg) (n : Fin 16) (bits : Word) (ht : t < 16)
    (h : t * 4096 + n.val = bits.toNat) : OpRow.covers ⟨name, bits, 0xF00F⟩ (packXYN t x y n) = true := by
  apply covers_F00F
  have := n.isLt
  have := x.isLt
  have := y.isLt
  rw [packXYN_toNat t x y n ht, ← h]
  clear h; omega

/-- A packed `XYN` word is covered by its family's row. -/
theorem covers_packXYN (name : String) (t : Nat) (x y : Reg) (n : Fin 16) (bits : Word) (ht : t < 16)
    (h : t * 4096 = bits.toNat) : OpRow.covers ⟨name, bits, 0xF000⟩ (packXYN t x y n) = true := by
  apply covers_F000
  have := n.isLt
  have := x.isLt
  have := y.isLt
  rw [packXYN_toNat t x y n ht, ← h]
  clear h; omega

end Sys2Proof
end

