-- ==== Sys2Proof/Laws/PerInstr.lean ====
section
/-! SUPPORT. Laws stated per instruction: the word an instruction encodes to is covered by the instruction's own row of the opcode table, so it is legal. -/

namespace Sys2Proof.Laws.CoveredByItsRow

/-- The row of the opcode table with the instruction's mnemonic covers the instruction's word (R75). -/
def Statement (i : Instr) : Prop :=
  ∃ r ∈ opcodeTable, r.mnemonic = i.mnemonic ∧ r.covers (encode i) = true

theorem cls : Statement .cls :=
  ⟨⟨"CLS", 0x00E0, 0xFFFF⟩, by simp [opcodeTable, opRowsLow, opRowsAlu, opRowsHigh, opRowsMisc], rfl,
    rfl⟩

theorem ret : Statement .ret :=
  ⟨⟨"RET", 0x00EE, 0xFFFF⟩, by simp [opcodeTable, opRowsLow, opRowsAlu, opRowsHigh, opRowsMisc], rfl,
    rfl⟩

theorem jp (nnn : Addr) : Statement (.jp nnn) :=
  ⟨⟨"JP_nnn", 0x1000, 0xF000⟩, by simp [opcodeTable, opRowsLow, opRowsAlu, opRowsHigh, opRowsMisc], rfl,
    covers_packNNN _ _ nnn _ (by decide) rfl⟩

theorem call (nnn : Addr) : Statement (.call nnn) :=
  ⟨⟨"CALL_nnn", 0x2000, 0xF000⟩, by simp [opcodeTable, opRowsLow, opRowsAlu, opRowsHigh, opRowsMisc], rfl,
    covers_packNNN _ _ nnn _ (by decide) rfl⟩

theorem seImm (x : Reg) (kk : Byte) : Statement (.seImm x kk) :=
  ⟨⟨"SE_Vx__kk", 0x3000, 0xF000⟩, by simp [opcodeTable, opRowsLow, opRowsAlu, opRowsHigh, opRowsMisc], rfl,
    covers_packXKK _ _ x kk _ (by decide) rfl⟩

theorem sneImm (x : Reg) (kk : Byte) : Statement (.sneImm x kk) :=
  ⟨⟨"SNE_Vx__kk", 0x4000, 0xF000⟩, by simp [opcodeTable, opRowsLow, opRowsAlu, opRowsHigh, opRowsMisc], rfl,
    covers_packXKK _ _ x kk _ (by decide) rfl⟩

theorem seReg (x y : Reg) : Statement (.seReg x y) :=
  ⟨⟨"SE_Vx__Vy", 0x5000, 0xF00F⟩, by simp [opcodeTable, opRowsLow, opRowsAlu, opRowsHigh, opRowsMisc], rfl,
    covers_packXYS _ _ x y _ _ (by decide) rfl⟩

theorem ldImm (x : Reg) (kk : Byte) : Statement (.ldImm x kk) :=
  ⟨⟨"LD_Vx__kk", 0x6000, 0xF000⟩, by simp [opcodeTable, opRowsLow, opRowsAlu, opRowsHigh, opRowsMisc], rfl,
    covers_packXKK _ _ x kk _ (by decide) rfl⟩

theorem addImm (x : Reg) (kk : Byte) : Statement (.addImm x kk) :=
  ⟨⟨"ADD_Vx__kk", 0x7000, 0xF000⟩, by simp [opcodeTable, opRowsLow, opRowsAlu, opRowsHigh, opRowsMisc], rfl,
    covers_packXKK _ _ x kk _ (by decide) rfl⟩

theorem ldReg (x y : Reg) : Statement (.ldReg x y) :=
  ⟨⟨"LD_Vx__Vy", 0x8000, 0xF00F⟩, by simp [opcodeTable, opRowsLow, opRowsAlu, opRowsHigh, opRowsMisc], rfl,
    covers_packXYS _ _ x y _ _ (by decide) rfl⟩

theorem orReg (x y : Reg) : Statement (.orReg x y) :=
  ⟨⟨"OR_Vx__Vy", 0x8001, 0xF00F⟩, by simp [opcodeTable, opRowsLow, opRowsAlu, opRowsHigh, opRowsMisc], rfl,
    covers_packXYS _ _ x y _ _ (by decide) rfl⟩

theorem andReg (x y : Reg) : Statement (.andReg x y) :=
  ⟨⟨"AND_Vx__Vy", 0x8002, 0xF00F⟩, by simp [opcodeTable, opRowsLow, opRowsAlu, opRowsHigh, opRowsMisc], rfl,
    covers_packXYS _ _ x y _ _ (by decide) rfl⟩

theorem xorReg (x y : Reg) : Statement (.xorReg x y) :=
  ⟨⟨"XOR_Vx__Vy", 0x8003, 0xF00F⟩, by simp [opcodeTable, opRowsLow, opRowsAlu, opRowsHigh, opRowsMisc], rfl,
    covers_packXYS _ _ x y _ _ (by decide) rfl⟩

theorem addReg (x y : Reg) : Statement (.addReg x y) :=
  ⟨⟨"ADD_Vx__Vy", 0x8004, 0xF00F⟩, by simp [opcodeTable, opRowsLow, opRowsAlu, opRowsHigh, opRowsMisc], rfl,
    covers_packXYS _ _ x y _ _ (by decide) rfl⟩

theorem subReg (x y : Reg) : Statement (.subReg x y) :=
  ⟨⟨"SUB_Vx__Vy", 0x8005, 0xF00F⟩, by simp [opcodeTable, opRowsLow, opRowsAlu, opRowsHigh, opRowsMisc], rfl,
    covers_packXYS _ _ x y _ _ (by decide) rfl⟩

theorem shrReg (x y : Reg) : Statement (.shrReg x y) :=
  ⟨⟨"SHR_Vx__Vy", 0x8006, 0xF00F⟩, by simp [opcodeTable, opRowsLow, opRowsAlu, opRowsHigh, opRowsMisc], rfl,
    covers_packXYS _ _ x y _ _ (by decide) rfl⟩

theorem subnReg (x y : Reg) : Statement (.subnReg x y) :=
  ⟨⟨"SUBN_Vx__Vy", 0x8007, 0xF00F⟩, by simp [opcodeTable, opRowsLow, opRowsAlu, opRowsHigh, opRowsMisc], rfl,
    covers_packXYS _ _ x y _ _ (by decide) rfl⟩

theorem shlReg (x y : Reg) : Statement (.shlReg x y) :=
  ⟨⟨"SHL_Vx__Vy", 0x800E, 0xF00F⟩, by simp [opcodeTable, opRowsLow, opRowsAlu, opRowsHigh, opRowsMisc], rfl,
    covers_packXYS _ _ x y _ _ (by decide) rfl⟩

theorem sneReg (x y : Reg) : Statement (.sneReg x y) :=
  ⟨⟨"SNE_Vx__Vy", 0x9000, 0xF00F⟩, by simp [opcodeTable, opRowsLow, opRowsAlu, opRowsHigh, opRowsMisc], rfl,
    covers_packXYS _ _ x y _ _ (by decide) rfl⟩

theorem ldI (nnn : Addr) : Statement (.ldI nnn) :=
  ⟨⟨"LD_I__nnn", 0xA000, 0xF000⟩, by simp [opcodeTable, opRowsLow, opRowsAlu, opRowsHigh, opRowsMisc], rfl,
    covers_packNNN _ _ nnn _ (by decide) rfl⟩

theorem jpV0 (nnn : Addr) : Statement (.jpV0 nnn) :=
  ⟨⟨"JP_V0__nnn", 0xB000, 0xF000⟩, by simp [opcodeTable, opRowsLow, opRowsAlu, opRowsHigh, opRowsMisc], rfl,
    covers_packNNN _ _ nnn _ (by decide) rfl⟩

theorem rnd (x : Reg) (kk : Byte) : Statement (.rnd x kk) :=
  ⟨⟨"RND_Vx__kk", 0xC000, 0xF000⟩, by simp [opcodeTable, opRowsLow, opRowsAlu, opRowsHigh, opRowsMisc], rfl,
    covers_packXKK _ _ x kk _ (by decide) rfl⟩

theorem drw (x y : Reg) (n : Fin 16) : Statement (.drw x y n) :=
  ⟨⟨"DRW_Vx__Vy__n", 0xD000, 0xF000⟩, by simp [opcodeTable, opRowsLow, opRowsAlu, opRowsHigh, opRowsMisc], rfl,
    covers_packXYN _ _ x y n _ (by decide) rfl⟩

theorem skp (x : Reg) : Statement (.skp x) :=
  ⟨⟨"SKP_Vx", 0xE09E, 0xF0FF⟩, by simp [opcodeTable, opRowsLow, opRowsAlu, opRowsHigh, opRowsMisc], rfl,
    covers_packXSS _ _ x _ _ (by decide) rfl⟩

theorem sknp (x : Reg) : Statement (.sknp x) :=
  ⟨⟨"SKNP_Vx", 0xE0A1, 0xF0FF⟩, by simp [opcodeTable, opRowsLow, opRowsAlu, opRowsHigh, opRowsMisc], rfl,
    covers_packXSS _ _ x _ _ (by decide) rfl⟩

theorem ldVxDt (x : Reg) : Statement (.ldVxDt x) :=
  ⟨⟨"LD_Vx__DT", 0xF007, 0xF0FF⟩, by simp [opcodeTable, opRowsLow, opRowsAlu, opRowsHigh, opRowsMisc], rfl,
    covers_packXSS _ _ x _ _ (by decide) rfl⟩

theorem ldVxKey (x : Reg) : Statement (.ldVxKey x) :=
  ⟨⟨"LD_Vx__K", 0xF00A, 0xF0FF⟩, by simp [opcodeTable, opRowsLow, opRowsAlu, opRowsHigh, opRowsMisc], rfl,
    covers_packXSS _ _ x _ _ (by decide) rfl⟩

theorem ldDtVx (x : Reg) : Statement (.ldDtVx x) :=
  ⟨⟨"LD_DT__Vx", 0xF015, 0xF0FF⟩, by simp [opcodeTable, opRowsLow, opRowsAlu, opRowsHigh, opRowsMisc], rfl,
    covers_packXSS _ _ x _ _ (by decide) rfl⟩

theorem ldStVx (x : Reg) : Statement (.ldStVx x) :=
  ⟨⟨"LD_ST__Vx", 0xF018, 0xF0FF⟩, by simp [opcodeTable, opRowsLow, opRowsAlu, opRowsHigh, opRowsMisc], rfl,
    covers_packXSS _ _ x _ _ (by decide) rfl⟩

theorem addI (x : Reg) : Statement (.addI x) :=
  ⟨⟨"ADD_I__Vx", 0xF01E, 0xF0FF⟩, by simp [opcodeTable, opRowsLow, opRowsAlu, opRowsHigh, opRowsMisc], rfl,
    covers_packXSS _ _ x _ _ (by decide) rfl⟩

theorem ldFont (x : Reg) : Statement (.ldFont x) :=
  ⟨⟨"LD_F__Vx", 0xF029, 0xF0FF⟩, by simp [opcodeTable, opRowsLow, opRowsAlu, opRowsHigh, opRowsMisc], rfl,
    covers_packXSS _ _ x _ _ (by decide) rfl⟩

theorem ldBcd (x : Reg) : Statement (.ldBcd x) :=
  ⟨⟨"LD_B__Vx", 0xF033, 0xF0FF⟩, by simp [opcodeTable, opRowsLow, opRowsAlu, opRowsHigh, opRowsMisc], rfl,
    covers_packXSS _ _ x _ _ (by decide) rfl⟩

theorem storeRegs (x : Reg) : Statement (.storeRegs x) :=
  ⟨⟨"LD__I___Vx", 0xF055, 0xF0FF⟩, by simp [opcodeTable, opRowsLow, opRowsAlu, opRowsHigh, opRowsMisc], rfl,
    covers_packXSS _ _ x _ _ (by decide) rfl⟩

theorem loadRegs (x : Reg) : Statement (.loadRegs x) :=
  ⟨⟨"LD_Vx___I", 0xF065, 0xF0FF⟩, by simp [opcodeTable, opRowsLow, opRowsAlu, opRowsHigh, opRowsMisc], rfl,
    covers_packXSS _ _ x _ _ (by decide) rfl⟩

end Sys2Proof.Laws.CoveredByItsRow
end

