-- ==== Sys2Proof/Laws/Step.lean ====
section
/-! SUPPORT. What the execute phase and a step can answer, said once. -/

namespace Sys2Proof.Machine

@[simp] theorem State.fetchWord_eq (s : State) : s.fetchWord = s.wordAtPc := rfl

/-- The word at pc, as an integer: the first byte is bits 15:8 (R56, R87). -/
theorem State.wordAtPc_toNat (s : State) :
    s.wordAtPc.toNat = (s.mem.read s.pc.toNat).toNat * 256 + (s.mem.read (s.pc.toNat + 1)).toNat := by
  have := (s.mem.read s.pc.toNat).isLt
  have := (s.mem.read (s.pc.toNat + 1)).isLt
  simp [State.wordAtPc]; omega

theorem State.fetchFault_of_lt (s : State) (h : s.pc.toNat + 1 < 4096) : s.fetchFault = none := by
  unfold State.fetchFault memSize; rw [if_neg (by omega)]

theorem State.fetchFault_of_ge (s : State) (h : 4096 ≤ s.pc.toNat + 1) :
    s.fetchFault = some (if s.pc.toNat ≥ 4096 then s.pc.toNat else s.pc.toNat + 1) := by
  unfold State.fetchFault memSize; rw [if_pos h]

/-- An access check in a `.next` answers a next state that either keeps `fault` or is the raised one. -/
theorem checked_fault (s : State) (op : Word) (bad : Option Nat) (done : State)
    (hd : done.fault = s.fault) :
    (s.checked op bad done).fault = s.fault ∨
      ∃ k a, s.checked op bad done = s.raise k (some op) a := by
  rcases s.checked_cases op bad done with ⟨_, h⟩ | ⟨a, _, h⟩
  · left; rw [h, hd]
  · exact .inr ⟨_, _, h⟩

/-- Every instruction answers a next state, in which the fault register is as before or the instruction
raised a fault and did nothing else (R267, R268). -/
theorem exec_cases (i : Instr) (s : State) :
    ∃ t, exec i s = .next t ∧
      (t.fault = s.fault ∨ ∃ k a, t = s.raise k (some (encode i)) a) := by
  cases i
  case ret =>
    simp only [exec, execRet]
    split
    · exact ⟨_, rfl, .inl rfl⟩
    · exact ⟨_, rfl, .inr ⟨_, _, rfl⟩⟩
  case call nnn =>
    simp only [exec, execCall]
    split
    · exact ⟨_, rfl, .inl rfl⟩
    · exact ⟨_, rfl, .inr ⟨_, _, rfl⟩⟩
  case skp x =>
    simp only [exec, execSkp]
    split
    · exact ⟨_, rfl, .inl rfl⟩
    · exact ⟨_, rfl, .inr ⟨_, _, rfl⟩⟩
  case sknp x =>
    simp only [exec, execSknp]
    split
    · exact ⟨_, rfl, .inl rfl⟩
    · exact ⟨_, rfl, .inr ⟨_, _, rfl⟩⟩
  case ldVxKey x =>
    refine ⟨_, rfl, .inl ?_⟩
    split <;> rfl
  case drw x y n => exact ⟨_, rfl, checked_fault _ _ _ _ rfl⟩
  case ldBcd x => exact ⟨_, rfl, checked_fault _ _ _ _ rfl⟩
  case storeRegs x => exact ⟨_, rfl, checked_fault _ _ _ _ rfl⟩
  case loadRegs x => exact ⟨_, rfl, checked_fault _ _ _ _ rfl⟩
  all_goals exact ⟨_, rfl, .inl rfl⟩

/-- A memory in canonical form in place of the old one keeps the invariant: no other clause reads it. -/
theorem State.Inv.with_mem {s : State} (h : s.Inv) {m : Memory} (hm : m.wf = true) :
    State.Inv { s with mem := m } :=
  ⟨hm, h.pc_le, h.stack_le, h.faulted, h.not_faulted⟩

/-- A step of a halted core (R86). -/
theorem step_of_halted (s : State) (r : FaultRecord) (h : s.fault = some r) :
    step s = .next (s.reportFault r) := by
  unfold step cycle; rw [h]

/-- A step whose fetch is out of range (R87). -/
theorem step_of_fetch_fault (s : State) (h : s.fault = none) (hp : 4096 ≤ s.pc.toNat + 1) :
    step s = .next (s.raise .addressOutOfRange none
      (some (if s.pc.toNat ≥ 4096 then s.pc.toNat else s.pc.toNat + 1))) := by
  unfold step cycle; rw [h, s.fetchFault_of_ge hp]

/-- A step whose word is illegal (R88). -/
theorem step_of_illegal (s : State) (op : Word) (h : s.fault = none) (hp : s.pc.toNat + 1 < 4096)
    (hd : decode s.wordAtPc = .illegal op) :
    step s = .next (s.raise .invalidOpcode (some op) none) := by
  unfold step cycle; rw [h, s.fetchFault_of_lt hp, s.fetchWord_eq, hd]

/-- A step that runs an instruction (R89, R90). -/
theorem step_of_runs (s t : State) (i : Instr) (h : s.Runs i) (he : exec i s = .next t) :
    step s = .next t.afterExecute := by
  unfold step cycle
  rw [h.1, s.fetchFault_of_lt h.2.1, s.fetchWord_eq, h.2.2]
  show (match exec i s with
    | .next t => Host.Outcome.next t.afterExecute
    | .fault f => .fault f
    | .refused r => .refused r) = _
  rw [he]

/-- A machine's run, by its first step. -/
theorem run_succ_of_step (M : Host.Core) (n : Nat) (s t : M.State) (h : M.step s = .next t) :
    M.run (n + 1) s = M.run n t := by
  rw [Host.Core.run, h]

/-- A run of the core, by its first step. -/
theorem run_succ_of_next (n : Nat) (s t : State) (h : step s = .next t) :
    Sys2Proof.core.run (n + 1) s = Sys2Proof.core.run n t :=
  run_succ_of_step Sys2Proof.core n s t h

/-- Everything a step can be: halted, a fetch fault, an illegal word, or an instruction run. -/
theorem step_cases (s : State) :
    (∃ r, s.fault = some r ∧ step s = .next (s.reportFault r)) ∨
    (s.fault = none ∧ 4096 ≤ s.pc.toNat + 1 ∧
      step s = .next (s.raise .addressOutOfRange none
        (some (if s.pc.toNat ≥ 4096 then s.pc.toNat else s.pc.toNat + 1)))) ∨
    (s.fault = none ∧ s.pc.toNat + 1 < 4096 ∧ ∃ op, decode s.wordAtPc = .illegal op ∧
      step s = .next (s.raise .invalidOpcode (some op) none)) ∨
    (∃ i t, s.Runs i ∧ exec i s = .next t ∧ step s = .next t.afterExecute) := by
  cases hf : s.fault with
  | some r => exact .inl ⟨r, rfl, step_of_halted s r hf⟩
  | none =>
    by_cases hp : 4096 ≤ s.pc.toNat + 1
    · exact .inr (.inl ⟨rfl, hp, step_of_fetch_fault s hf hp⟩)
    · cases hd : decode s.wordAtPc with
      | illegal op => exact .inr (.inr (.inl ⟨rfl, by omega, op, rfl, step_of_illegal s op hf (by omega) hd⟩))
      | instr i =>
        obtain ⟨t, ht, _⟩ := exec_cases i s
        have hr : s.Runs i := ⟨hf, by omega, hd⟩
        exact .inr (.inr (.inr ⟨i, t, hr, ht, step_of_runs s t i hr ht⟩))

end Sys2Proof.Machine
end

