-- ==== Sys2Proof/Tests/Slice0.lean ====
section
/-! SUPPORT. The model's own tests: decoding of words written out from 30_encoding.md, the checks of WellFormed, one-step vectors of 95_test_vectors.md, and a witness for the hypotheses of every statement. -/

namespace Sys2Proof.Tests

open Sys2Proof.Machine

/-! ## Decoding: each word written out digit by digit from the formats of R72 and R75 -/

theorem test_decode_low_families :
    decode 0x00E0 = .instr .cls ∧ decode 0x00EE = .instr .ret ∧ decode 0x1204 = .instr (.jp 0x204) ∧
    decode 0x2ABC = .instr (.call 0xABC) ∧ decode 0x3342 = .instr (.seImm 3 0x42) ∧
    decode 0x4001 = .instr (.sneImm 0 0x01) ∧ decode 0x5120 = .instr (.seReg 1 2) ∧
    decode 0x6A2F = .instr (.ldImm 0xA 0x2F) ∧ decode 0x71FE = .instr (.addImm 1 0xFE) := by decide

theorem test_decode_alu_family :
    decode 0x8120 = .instr (.ldReg 1 2) ∧ decode 0x83D1 = .instr (.orReg 3 0xD) ∧
    decode 0x8122 = .instr (.andReg 1 2) ∧ decode 0x8123 = .instr (.xorReg 1 2) ∧
    decode 0x8F14 = .instr (.addReg 0xF 1) ∧ decode 0x80F5 = .instr (.subReg 0 0xF) ∧
    decode 0x8126 = .instr (.shrReg 1 2) ∧ decode 0x8127 = .instr (.subnReg 1 2) ∧
    decode 0x812E = .instr (.shlReg 1 2) := by decide

theorem test_decode_high_families :
    decode 0x9120 = .instr (.sneReg 1 2) ∧ decode 0xA123 = .instr (.ldI 0x123) ∧
    decode 0xBFFF = .instr (.jpV0 0xFFF) ∧ decode 0xC30F = .instr (.rnd 3 0x0F) ∧
    decode 0xD125 = .instr (.drw 1 2 5) ∧ decode 0xE29E = .instr (.skp 2) ∧
    decode 0xE3A1 = .instr (.sknp 3) := by decide

theorem test_decode_misc_family :
    decode 0xF307 = .instr (.ldVxDt 3) ∧ decode 0xF40A = .instr (.ldVxKey 4) ∧
    decode 0xF115 = .instr (.ldDtVx 1) ∧ decode 0xF218 = .instr (.ldStVx 2) ∧
    decode 0xF51E = .instr (.addI 5) ∧ decode 0xF629 = .instr (.ldFont 6) ∧
    decode 0xF033 = .instr (.ldBcd 0) ∧ decode 0xFF55 = .instr (.storeRegs 0xF) ∧
    decode 0xF265 = .instr (.loadRegs 2) := by decide

/-- The bytes of a word lie high byte first (R56), and a decoder consumes two (R70). -/
theorem test_decode_bytes :
    decodeBytes [0xD1, 0x25, 0x60] = .instr (.drw 1 2 5) [0x60] ∧
    decodeBytes [0x00, 0x00] = .illegal 0x0000 ∧ decodeBytes [0xD1] = .truncated := by decide

theorem test_decode_table_word :
    decodeTableWord 16 0x812E = some (.shlReg 1 2) ∧ decodeTableWord 16 0x8008 = none := by decide

/-! ## WellFormed: each check refuses an ill-formed term -/

/-- The illegal words the spec names (R76, R77; vectors 2.7). -/
theorem test_legalWord_refuses :
    legalWord 0x0000 = false ∧ legalWord 0x01E0 = false ∧ legalWord 0x5121 = false ∧
    legalWord 0x8008 = false ∧ legalWord 0x9121 = false ∧ legalWord 0xE09F = false ∧
    legalWord 0xF0FF = false := by decide

theorem test_legalWord_accepts :
    legalWord 0x00E0 = true ∧ legalWord 0x5120 = true ∧ legalWord 0x800E = true ∧
    legalWord 0xEFA1 = true ∧ legalWord 0xFF65 = true := by decide

theorem test_romFits_refuses : romFits (List.replicate 3585 0) = false := by
  unfold romFits; rw [List.length_replicate]; rfl

theorem test_romFits_accepts : romFits (List.replicate 3584 0) = true := by
  unfold romFits; rw [List.length_replicate]; rfl

/-- A falling address, a repeated address, a listed zero, an address of 4096. -/
theorem test_memory_wf_refuses :
    Memory.wf [(2, 1), (1, 1)] = false ∧ Memory.wf [(1, 1), (1, 2)] = false ∧
    Memory.wf [(1, 0)] = false ∧ Memory.wf [(4096, 1)] = false := by decide

theorem test_memory_wf_accepts : Memory.wf [(0, 1), (4095, 2)] = true := by decide

/-- No word is of two rows of the opcode table: any two rows differ in a bit both test. -/
theorem test_opcode_rows_disjoint :
    opcodeTable.Pairwise (fun r q => r.bits &&& q.mask ≠ q.bits &&& r.mask) := by decide

theorem test_opcode_rows_count : opcodeTable.length = 34 := by decide

/-! ## Reset (R38) -/

theorem test_reset_memory_wf : State.reset.mem.wf = true := by decide

/-- With nothing placed the first word is 0x0000, which is illegal (R77; vectors 2.7, zero word). -/
theorem test_reset_steps_to_invalid_opcode :
    step State.reset = .next (State.reset.raise .invalidOpcode (some 0x0000) none) := rfl

/-! ## One step at a time: the vectors of 95_test_vectors.md -/

/-- The inputs of a vector that lists none: no key, `rnd = 0`. -/
def noKeys : StepInput := { keys := Vector.replicate 16 false, rnd := 0 }

/-- A sample with one key down. -/
def oneKey (k : Fin 16) : StepInput := { keys := (Vector.replicate 16 false).set k true, rnd := 0 }

/-- A core just constructed, with `SHIFT_SRC = VX`. -/
def core0 : State :=
  { State.construct { shiftSrc := .vx, ldstIncI := true, font := defaultFont } with inputs := [noKeys] }

/-- A core just constructed, with `SHIFT_SRC = VY`. -/
def coreVy : State :=
  { State.construct { shiftSrc := .vy, ldstIncI := true, font := defaultFont } with inputs := [noKeys] }

/-- A core just constructed, with `LDST_INC_I = false`. -/
def coreKeepI : State :=
  { State.construct { shiftSrc := .vx, ldstIncI := false, font := defaultFont } with inputs := [noKeys] }

/-- The registers with some of them set. -/
def regs (l : List (Reg × Byte)) : Vector Byte 16 :=
  l.foldl (fun v p => v.set p.1 p.2) (Vector.replicate 16 0)

/-- The state after one step on the word placed at pc. -/
def ran (w : Word) (s : State) : State :=
  match step (s.storeAtPc w) with
  | .next t => t
  | .fault _ => s
  | .refused _ => s

/-- The fault recorded by one step on the word placed at pc. -/
def faultOf (w : Word) (s : State) : Option (FaultKind × Word × Option Word × Option Nat) :=
  (ran w s).fault.map fun r => (r.kind, r.pc, r.opcode, r.addr)

/-! ### Control flow (vectors 2.1) -/

theorem test_ret_pops :
    let t := ran 0x00EE { core0 with pc := 0x300, sp := 1, stack := core0.stack.set 0 0x204 }
    t.pc = 0x204 ∧ t.sp = 0 ∧ t.stack[0] = 0x204 := by decide

theorem test_ret_empty_stack_faults :
    faultOf 0x00EE core0 = some (.stackUnderflow, 0x200, some 0x00EE, none) := by decide

theorem test_jp : (ran 0x1204 { core0 with pc := 0x300 }).pc = 0x204 := by decide

theorem test_call_pushes :
    let t := ran 0x2200 { core0 with pc := 0xFFE }
    t.stack[0] = 0x1000 ∧ t.sp = 1 ∧ t.pc = 0x200 := by decide

theorem test_call_full_stack_faults :
    faultOf 0x2ABC { core0 with sp := 16 } = some (.stackOverflow, 0x200, some 0x2ABC, none) := by decide

theorem test_se_imm :
    (ran 0x3342 { core0 with v := regs [(3, 0x42)] }).pc = 0x204 ∧
    (ran 0x3342 { core0 with v := regs [(3, 0x41)] }).pc = 0x202 := by decide

theorem test_sne_imm :
    (ran 0x4001 { core0 with pc := 0x210 }).pc = 0x214 ∧
    (ran 0x4001 { core0 with pc := 0x210, v := regs [(0, 1)] }).pc = 0x212 := by decide

theorem test_se_reg :
    (ran 0x5120 { core0 with v := regs [(1, 7), (2, 7)] }).pc = 0x204 ∧
    (ran 0x5120 { core0 with v := regs [(1, 7), (2, 8)] }).pc = 0x202 := by decide

theorem test_sne_reg :
    (ran 0x9120 { core0 with v := regs [(1, 7), (2, 8)] }).pc = 0x204 ∧
    (ran 0x9110 { core0 with v := regs [(1, 7)] }).pc = 0x202 := by decide

theorem test_jp_v0_is_not_masked :
    (ran 0xB300 { core0 with v := regs [(0, 0x10)] }).pc = 0x310 ∧
    (ran 0xBFFF { core0 with v := regs [(0, 0xFF)] }).pc = 0x10FE := by decide

/-! ### Arithmetic and logic (vectors 2.2) -/

theorem test_ld_imm : (ran 0x6A2F core0).v[0xA] = 0x2F := by decide

theorem test_add_imm_wraps_without_flag :
    let t := ran 0x7120 { core0 with v := regs [(1, 0xF0)] }
    t.v[1] = 0x10 ∧ t.v[0xF] = 0 := by decide

theorem test_ld_reg : (ran 0x8120 { core0 with v := regs [(2, 0x99)] }).v[1] = 0x99 := by decide

theorem test_or_keeps_vf :
    let t := ran 0x8011 { core0 with v := regs [(0, 0x0F), (1, 0xF0), (0xF, 0x55)] }
    t.v[0] = 0xFF ∧ t.v[0xF] = 0x55 := by decide

theorem test_and : (ran 0x8012 { core0 with v := regs [(0, 0x3C), (1, 0x0F)] }).v[0] = 0x0C := by decide

theorem test_xor : (ran 0x8013 { core0 with v := regs [(0, 0x3C), (1, 0x0F)] }).v[0] = 0x33 := by decide

theorem test_add_reg_carry :
    let t := ran 0x8014 { core0 with v := regs [(0, 0xFF), (1, 0x01)] }
    t.v[0] = 0x00 ∧ t.v[0xF] = 1 := by decide

theorem test_add_reg_to_vf_keeps_the_sum :
    (ran 0x8F14 { core0 with v := regs [(0xF, 0xFF), (1, 0x02)] }).v[0xF] = 0x01 := by decide

theorem test_sub_reg_borrow :
    let t := ran 0x8015 { core0 with v := regs [(0, 5), (1, 7), (0xF, 9)] }
    t.v[0] = 0xFE ∧ t.v[0xF] = 0 := by decide

theorem test_sub_reg_equal_operands :
    let t := ran 0x8015 { core0 with v := regs [(0, 7), (1, 7), (0xF, 9)] }
    t.v[0] = 0x00 ∧ t.v[0xF] = 0 := by decide

theorem test_subn_reg :
    let t := ran 0x8017 { core0 with v := regs [(0, 5), (1, 7)] }
    t.v[0] = 0x02 ∧ t.v[0xF] = 1 := by decide

theorem test_subn_reg_to_vf_keeps_the_difference :
    (ran 0x8F17 { core0 with v := regs [(0xF, 2), (1, 9)] }).v[0xF] = 0x07 := by decide

theorem test_shr_vx :
    let t := ran 0x8126 { core0 with v := regs [(1, 0x05), (2, 0x0C)] }
    t.v[1] = 0x02 ∧ t.v[0xF] = 1 := by decide

theorem test_shr_vy :
    let t := ran 0x8126 { coreVy with v := regs [(1, 0x05), (2, 0x0C)] }
    t.v[1] = 0x06 ∧ t.v[0xF] = 0 := by decide

theorem test_shl_vx :
    let t := ran 0x812E { core0 with v := regs [(1, 0x81), (2, 0x40)] }
    t.v[1] = 0x02 ∧ t.v[0xF] = 1 := by decide

theorem test_shl_vy :
    let t := ran 0x801E { coreVy with v := regs [(0, 0x00), (1, 0xFF)] }
    t.v[0] = 0xFE ∧ t.v[0xF] = 1 := by decide

theorem test_rnd :
    (ran 0xC30F { core0 with inputs := [{ noKeys with rnd := 0xA5 }] }).v[3] = 0x05 := by decide

/-! ### Index register and memory (vectors 2.3) -/

theorem test_ld_i : (ran 0xA123 core0).i = 0x123 := by decide

theorem test_add_i_wraps_without_flag :
    let t := ran 0xF51E { core0 with i := 0xFFFF, v := regs [(5, 2)] }
    t.i = 0x0001 ∧ t.v[0xF] = 0 := by decide

theorem test_add_i_is_not_masked :
    (ran 0xF51E { core0 with i := 0x0FFF, v := regs [(5, 1)] }).i = 0x1000 := by decide

theorem test_ld_font :
    (ran 0xF529 { core0 with v := regs [(5, 0x0A)] }).i = 0x082 ∧
    (ran 0xF529 { core0 with v := regs [(5, 0xFF)] }).i = 0x54B := by decide

theorem test_bcd :
    let t := ran 0xF033 { core0 with i := 0xFFD, v := regs [(0, 255)] }
    t.mem.read 0xFFD = 2 ∧ t.mem.read 0xFFE = 5 ∧ t.mem.read 0xFFF = 5 ∧ t.i = 0xFFD := by decide

theorem test_bcd_out_of_range :
    faultOf 0xF033 { core0 with i := 0xFFFF } = some (.addressOutOfRange, 0x200, some 0xF033, some 0xFFFF) := by
  decide

theorem test_store_regs :
    let t := ran 0xF255 { core0 with i := 0x400, v := regs [(0, 1), (1, 2), (2, 3)] }
    t.mem.read 0x400 = 1 ∧ t.mem.read 0x401 = 2 ∧ t.mem.read 0x402 = 3 ∧ t.i = 0x403 := by decide

theorem test_store_regs_out_of_range_writes_nothing :
    let t := ran 0xFF55 { core0 with i := 0xFF1, v := regs [(0, 9)] }
    t.fault.map (·.addr) = some (some 0x1000) ∧ t.mem.read 0xFF1 = 0 ∧ t.i = 0xFF1 := by decide

theorem test_load_regs :
    let t := ran 0xF265 { core0 with i := 0x400, mem := [(0x400, 1), (0x401, 5), (0x402, 6)] }
    t.v[0] = 1 ∧ t.v[1] = 5 ∧ t.v[2] = 6 ∧ t.i = 0x403 := by decide

theorem test_load_regs_keeps_i :
    let t := ran 0xF065 { coreKeepI with i := 0xFFF, mem := [(0xFFF, 0xAB)] }
    t.v[0] = 0xAB ∧ t.i = 0xFFF := by decide

/-! ### Display (vectors 2.4) -/

theorem test_cls :
    (ran 0x00E0 { core0 with disp := Display.blank.toggle 63 31 }).disp.pixel 63 31 = false := by decide

/-- Coordinates 65 and 33 wrap to 1 and 1; byte 0x81 sets columns 1 and 8. -/
theorem test_drw_wraps_msb_first :
    let t := ran 0xD011 { core0 with i := 0xFFF, mem := [(0xFFF, 0x81)], v := regs [(0, 0x41), (1, 0x21)] }
    t.disp.pixel 1 1 = true ∧ t.disp.pixel 8 1 = true ∧ t.disp.pixel 2 1 = false ∧ t.v[0xF] = 0 := by decide

/-- Collision on a set pixel, then the same draw again: VF = 0, since the first one only cleared a pixel, as
steps 0x20A and 0x20E of program P3 of 95_test_vectors.md say ("erase A, VF = 1", "draw A again, VF = 0").
R203's sentence about VF does not hold of such a display (notes/assumptions/10.md). -/
theorem test_drw_collision_and_second_draw :
    let s := { core0 with i := 0x300, mem := [(0x300, 0x80)], disp := Display.blank.toggle 0 0, inputs := [] }
    let t := ran 0xD011 s
    let u := ran 0xD011 { t with pc := 0x200 }
    t.v[0xF] = 1 ∧ t.disp.pixel 0 0 = false ∧ u.v[0xF] = 0 ∧ u.disp.pixel 0 0 = true := by decide

/-! ### Input and timers (vectors 2.5, 2.6) -/

theorem test_skp :
    (ran 0xE29E { core0 with v := regs [(2, 5)], inputs := [oneKey 5] }).pc = 0x204 ∧
    (ran 0xE29E { core0 with v := regs [(2, 5)] }).pc = 0x202 := by decide

theorem test_skp_key_16_faults :
    faultOf 0xE09E { core0 with v := regs [(0, 16)] } =
      some (.addressOutOfRange, 0x200, some 0xE09E, some 16) := by decide

theorem test_sknp :
    (ran 0xE2A1 { core0 with v := regs [(2, 5)], inputs := [oneKey 5] }).pc = 0x202 ∧
    (ran 0xE2A1 { core0 with v := regs [(2, 5)] }).pc = 0x204 := by decide

theorem test_ld_key_lowest :
    let t := ran 0xF40A { core0 with inputs := [{ noKeys with keys := (oneKey 3).keys.set 7 true }] }
    t.v[4] = 3 ∧ t.pc = 0x202 ∧ t.status = .retired := by decide

theorem test_ld_key_parks :
    let t := ran 0xF00A { core0 with dt := 3, st := 2 }
    t.status = .parked ∧ t.pc = 0x200 ∧ t.dt = 2 ∧ t.st = 1 ∧ t.sound = true := by decide

theorem test_ld_vx_dt :
    let t := ran 0xF307 { core0 with dt := 0x20 }
    t.v[3] = 0x20 ∧ t.dt = 0x1F := by decide

theorem test_ld_dt_vx :
    (ran 0xF115 { core0 with v := regs [(1, 0x3C)] }).dt = 0x3B ∧
    (ran 0xF015 { core0 with v := regs [(0, 0)], dt := 9 }).dt = 0 := by decide

theorem test_ld_st_vx :
    let t := ran 0xF018 { core0 with v := regs [(0, 1)] }
    t.st = 0 ∧ t.sound = true := by decide

/-! ### Fetch, faults, Loader and host reads (vectors 2.7, 2.8) -/

theorem test_fetch_at_last_word :
    let t := ran 0x6011 { core0 with pc := 0xFFE }
    t.v[0] = 0x11 ∧ t.pc = 0x1000 := by decide

theorem test_fetch_out_of_range :
    faultOf 0x6011 { core0 with pc := 0xFFF } = some (.addressOutOfRange, 0xFFF, none, some 0x1000) ∧
    faultOf 0x6011 { core0 with pc := 0x10FE } = some (.addressOutOfRange, 0x10FE, none, some 0x10FE) := by
  decide

theorem test_fault_does_not_tick :
    let t := ran 0xFF55 { core0 with i := 0xFF1, st := 3 }
    t.st = 3 ∧ t.pc = 0x200 ∧ t.sound = false := by decide

set_option maxRecDepth 4000 in
/-- Glyph A of the default table (vectors 2.8, S7). -/
theorem test_font_glyph :
    (loadFontset core0).mem.readBytes 0x082 5 = [0xF0, 0x90, 0xF0, 0x90, 0x90] := by decide

theorem test_load_program :
    ((loadProgram [0x12, 0x04] core0).2).fetchWord = 0x1204 := by decide

/-- R32 and D17: any nonzero byte of a key array is a pressed key. -/
theorem test_keys_of_bytes :
    (keysOfBytes ((Vector.replicate 16 0).set 3 0x80))[3] = true ∧
    (keysOfBytes (Vector.replicate 16 0))[3] = false := by decide

/-- R31: the pixel at column 3, row 2 is element 2 * 64 + 3 of the host's buffer. -/
theorem test_display_buffer_row_major :
    (State.displayBuffer { core0 with disp := Display.blank.toggle 3 2 })[131]? = some 1 ∧
    (State.displayBuffer { core0 with disp := Display.blank.toggle 3 2 })[194]? = some 0 := by decide

/-! ## Witnesses: for every statement with hypotheses a concrete state that meets them -/

/-- A core with the word at pc that runs it. -/
def at200 (w : Word) (s : State) : State := s.storeAtPc w

theorem witness_EncodeOfDecodeIsTheWord : decode 0xD125#16 = .instr (.drw 1 2 5) := by decide

theorem witness_StepRunsTheDecodedInstruction_ticks :
    ∃ s t i inp rest, State.Runs s i ∧ exec i s = .next t ∧ t.fault = none ∧ t.inputs = inp :: rest :=
  ⟨at200 0x6A2F core0, _, .ldImm 0xA 0x2F, _, _, ⟨rfl, by decide, by decide⟩, rfl, rfl, rfl⟩

theorem witness_StepRunsTheDecodedInstruction_free_inputs :
    ∃ s t i, State.Runs s i ∧ exec i s = .next t ∧ t.fault = none ∧ t.inputs = [] :=
  ⟨at200 0x6A2F { core0 with inputs := [] }, _, .ldImm 0xA 0x2F, ⟨rfl, by decide, by decide⟩, rfl, rfl, rfl⟩

theorem witness_StepRunsTheDecodedInstruction_faults :
    ∃ s t i, State.Runs s i ∧ exec i s = .next t ∧ t.fault ≠ none :=
  ⟨at200 0x00EE core0, _, .ret, ⟨rfl, by decide, by decide⟩, rfl, by decide⟩

theorem witness_FetchCombinesTwoBytesBigEndian_range :
    ∃ s : State, s.fault = none ∧ s.pc.toNat + 1 ≥ 4096 := ⟨{ core0 with pc := 0xFFF }, rfl, by decide⟩

theorem witness_FetchCombinesTwoBytesBigEndian_runs :
    ∃ (s : State) (op : Word) (i : Instr) (t : State), s.fault = none ∧ s.pc.toNat + 1 < 4096 ∧
      op.toNat = (s.mem.read s.pc.toNat).toNat * 256 + (s.mem.read (s.pc.toNat + 1)).toNat ∧
      decode op = .instr i ∧ exec i s = .next t :=
  ⟨at200 0x6011 { core0 with pc := 0xFFE }, 0x6011, .ldImm 0 0x11, _, rfl, by decide, by decide, by decide, rfl⟩

theorem witness_FetchCombinesTwoBytesBigEndian_illegal :
    ∃ (s : State) (op w : Word), s.fault = none ∧ s.pc.toNat + 1 < 4096 ∧
      op.toNat = (s.mem.read s.pc.toNat).toNat * 256 + (s.mem.read (s.pc.toNat + 1)).toNat ∧
      decode op = .illegal w :=
  ⟨at200 0x5121 core0, 0x5121, _, rfl, by decide, by decide, rfl⟩

theorem witness_HaltedCoreRepeatsItsFault :
    ∃ (s : State) (r : FaultRecord), s.fault = some r := ⟨ran 0x0000 core0, _, rfl⟩

theorem witness_FaultingStepChangesOnlyTheFault :
    ∃ (s t : State) (r : FaultRecord), s.fault = none ∧ step s = .next t ∧ t.fault = some r :=
  ⟨core0, _, _, rfl, rfl, rfl⟩

theorem witness_StepFaultsExactlyAsTheRulesSay : core0.fault = none := rfl

/-- Each of the four kinds of fault is reached. -/
theorem witness_StepFaultsExactlyAsTheRulesSay_kinds :
    (faultOf 0x5121 core0).map (·.1) = some .invalidOpcode ∧
    (faultOf 0x2ABC { core0 with sp := 16 }).map (·.1) = some .stackOverflow ∧
    (faultOf 0x00EE core0).map (·.1) = some .stackUnderflow ∧
    (faultOf 0xD012 { core0 with i := 0xFFF }).map (·.1) = some .addressOutOfRange := by decide

theorem witness_DelayTimerCountsSteps_writes :
    ∃ s t x, State.Runs s (.ldDtVx x) ∧ step s = .next t ∧ t.fault = none :=
  ⟨at200 0xF115 core0, _, 1, ⟨rfl, by decide, by decide⟩, rfl, rfl⟩

theorem witness_DelayTimerCountsSteps_reads :
    ∃ s t x, State.Runs s (.ldVxDt x) ∧ step s = .next t ∧ t.fault = none :=
  ⟨at200 0xF307 core0, _, 3, ⟨rfl, by decide, by decide⟩, rfl, rfl⟩

theorem witness_SoundTimerIsReadByNoInstruction_writes :
    ∃ s t x, State.Runs s (.ldStVx x) ∧ step s = .next t ∧ t.fault = none :=
  ⟨at200 0xF118 core0, _, 1, ⟨rfl, by decide, by decide⟩, rfl, rfl⟩

theorem witness_SoundTimerIsReadByNoInstruction_others :
    ∃ s t i, State.Runs s i ∧ step s = .next t ∧ t.fault = none ∧ (∀ x, i ≠ .ldStVx x) :=
  ⟨at200 0x00E0 { core0 with st := 1 }, _, .cls, ⟨rfl, by decide, by decide⟩, rfl, rfl, by simp⟩

theorem witness_SoundOutputIsStNonzeroAtTheTick_faults :
    ∃ s t : State, step s = .next t ∧ t.fault ≠ none := ⟨core0, _, rfl, by decide⟩

theorem witness_SoundOutputIsStNonzeroAtTheTick_ticks :
    ∃ s t i e, step s = .next t ∧ State.Runs s i ∧ exec i s = .next e ∧ e.fault = none :=
  ⟨at200 0xF118 core0, _, .ldStVx 1, _, rfl, ⟨rfl, by decide, by decide⟩, rfl, rfl⟩

theorem witness_StepStatusIsRetiredParkedOrFaulted_parked :
    ∃ s t : State, step s = .next t ∧ t.fault = none ∧ (∃ x, s.Runs (.ldVxKey x)) ∧
      ∀ k : Fin 16, s.input.keys[k] = false :=
  ⟨at200 0xF00A core0, _, rfl, rfl, ⟨0, rfl, by decide, by decide⟩, by decide⟩

theorem witness_StepStatusIsRetiredParkedOrFaulted_retired :
    ∃ s t : State, step s = .next t ∧ t.fault = none ∧
      ¬ ((∃ x, s.Runs (.ldVxKey x)) ∧ ∀ k : Fin 16, s.input.keys[k] = false) :=
  ⟨at200 0xF00A { core0 with inputs := [oneKey 15] }, _, rfl, rfl, fun h => absurd (h.2 15) (by decide)⟩

theorem witness_StepStatusIsRetiredParkedOrFaulted_faulted :
    ∃ (s t : State) (r : FaultRecord), step s = .next t ∧ t.fault = some r := ⟨core0, _, _, rfl, rfl⟩

theorem witness_StepKeepsTheInvariant : ∃ s t : State, s.Inv ∧ step s = .next t :=
  ⟨at200 0x6A2F core0, _, ⟨by decide, by decide, by decide,
    (fun r h => by cases (show none = some r from h)),
    (fun _ r h => by cases (show Status.notStarted = .faulted r from h))⟩, rfl⟩

theorem witness_ControlFlowInstructionsWriteOnlyTheirState :
    (∃ t, exec (.jp 0xFFF) core0 = .next t) ∧ (∃ t, exec (.jpV0 0xFFF) core0 = .next t) ∧
    (∃ t, exec (.seImm 0 0) core0 = .next t) ∧ (∃ t, exec (.sneImm 0 0) core0 = .next t) ∧
    (∃ t, exec (.seReg 1 2) core0 = .next t) ∧ (∃ t, exec (.sneReg 1 2) core0 = .next t) ∧
    (∃ t, exec (.skp 0) core0 = .next t) ∧ (∃ t, exec (.sknp 0) core0 = .next t) ∧
    (∃ t, exec .ret { core0 with sp := 1 } = .next t) := ⟨⟨_, rfl⟩, ⟨_, rfl⟩, ⟨_, rfl⟩, ⟨_, rfl⟩, ⟨_, rfl⟩,
      ⟨_, rfl⟩, ⟨_, rfl⟩, ⟨_, rfl⟩, ⟨_, rfl⟩⟩

theorem witness_ControlFlowInstructionsWriteOnlyTheirState_call :
    (∃ (s t : State), exec (.call 0xABC) s = .next t ∧ s.sp.val < 16) ∧
    (∃ (s t : State), exec (.call 0xABC) s = .next t ∧ s.sp.val = 16) :=
  ⟨⟨{ core0 with sp := 15 }, _, rfl, by decide⟩, ⟨{ core0 with sp := 16 }, _, rfl, rfl⟩⟩

theorem witness_RegisterInstructionsWriteOnlyTheirState :
    (∃ t, exec (.ldImm 0xF 1) core0 = .next t) ∧ (∃ t, exec (.ldVxKey 1) core0 = .next t) ∧
    (∃ t, exec (.addReg 0xF 0) core0 = .next t) ∧ (∃ t, exec (.addI 0) core0 = .next t) ∧
    (∃ t, exec (.ldDtVx 0) core0 = .next t) ∧ (∃ t, exec (.ldStVx 0) core0 = .next t) :=
  ⟨⟨_, rfl⟩, ⟨_, rfl⟩, ⟨_, rfl⟩, ⟨_, rfl⟩, ⟨_, rfl⟩, ⟨_, rfl⟩⟩

theorem witness_MemoryInstructionsWriteOnlyTheirState_in_range :
    (∃ (s t : State), exec (.ldBcd 0) s = .next t ∧ s.i.toNat + 2 < 4096) ∧
    (∃ (s t : State), exec (.storeRegs 15) s = .next t ∧ s.i.toNat + 15 < 4096) ∧
    (∃ (s t : State), exec (.loadRegs 15) s = .next t ∧ s.i.toNat + 15 < 4096) :=
  ⟨⟨{ core0 with i := 0xFFD }, _, rfl, by decide⟩, ⟨{ core0 with i := 0xFF0 }, _, rfl, by decide⟩,
    ⟨{ core0 with i := 0xFF0 }, _, rfl, by decide⟩⟩

theorem witness_MemoryInstructionsWriteOnlyTheirState_out_of_range :
    (∃ (s t : State), exec (.ldBcd 0) s = .next t ∧ s.i.toNat + 2 ≥ 4096) ∧
    (∃ (s t : State), exec (.storeRegs 15) s = .next t ∧ s.i.toNat + 15 ≥ 4096) ∧
    (∃ (s t : State), exec (.loadRegs 15) s = .next t ∧ s.i.toNat + 15 ≥ 4096) :=
  ⟨⟨{ core0 with i := 0xFFE }, _, rfl, by decide⟩, ⟨{ core0 with i := 0xFF1 }, _, rfl, by decide⟩,
    ⟨{ core0 with i := 0xFF1 }, _, rfl, by decide⟩⟩

theorem witness_DisplayInstructionsWriteOnlyTheirState :
    (∃ t, exec .cls core0 = .next t) ∧
    (∃ (s t : State), exec (.drw 0 1 0) s = .next t ∧ s.i.toNat = 0x5000) ∧
    (∃ (s t : State), exec (.drw 0 1 1) s = .next t ∧ s.i.toNat + 1 ≤ 4096) ∧
    (∃ (s t : State), exec (.drw 0 1 2) s = .next t ∧ s.i.toNat + 2 > 4096) :=
  ⟨⟨_, rfl⟩, ⟨{ core0 with i := 0x5000 }, _, rfl, by decide⟩, ⟨{ core0 with i := 0xFFF }, _, rfl, by decide⟩,
    ⟨{ core0 with i := 0xFFF }, _, rfl, by decide⟩⟩

theorem witness_OnlyCallAndReturnChangeSp :
    (∃ (s t : State), exec (.call 0x200) s = .next t ∧ s.sp.val = 16) ∧
    (∃ (s t : State), exec .ret s = .next t ∧ s.sp.val = 0) ∧
    (∃ (s t : State), exec (.call 0x200) s = .next t ∧ t.sp ≠ s.sp) ∧
    (∃ (s t : State), exec .ret s = .next t ∧ t.sp ≠ s.sp) :=
  ⟨⟨{ core0 with sp := 16 }, _, rfl, rfl⟩, ⟨core0, _, rfl, rfl⟩, ⟨core0, _, rfl, by decide⟩,
    ⟨{ core0 with sp := 16 }, _, rfl, by decide⟩⟩

theorem witness_OnlyDrawReadsTheDisplay :
    ∃ (s t : State) (i : Instr), exec i s = .next t ∧ ∀ x y n, i ≠ .drw x y n :=
  ⟨core0, _, .cls, rfl, by simp⟩

theorem witness_OnlyKeyInstructionsReadTheKeys :
    ∃ (s t : State) (i : Instr) (keys : Vector Bool 16) (r : Byte) (rest : List StepInput),
      s.inputs = { keys := keys, rnd := r } :: rest ∧ exec i s = .next t ∧
      (∀ x, i ≠ .skp x) ∧ (∀ x, i ≠ .sknp x) ∧ ∀ x, i ≠ .ldVxKey x :=
  ⟨core0, _, .rnd 0 0xFF, _, _, _, rfl, rfl, by simp, by simp, by simp⟩

theorem witness_NextPcFollowsTheTable :
    (∃ (i : Instr) (s t : State), s.fault = none ∧ exec i s = .next t ∧ t.fault = none) ∧
    (∃ (i : Instr) (s t : State), s.fault = none ∧ exec i s = .next t ∧ t.fault ≠ none) :=
  ⟨⟨.sknp 0, core0, _, rfl, rfl, rfl⟩, ⟨.ret, core0, _, rfl, rfl, by decide⟩⟩

theorem witness_ReturnPopsTheCallStack :
    (∃ (s : State) (k : Fin 16), s.sp.val = k.val + 1 ∧ s.fault = none ∧ s.stack[k].toNat ≥ 4095) ∧
    (∃ s : State, s.sp.val = 0) :=
  ⟨⟨{ core0 with sp := 16, stack := core0.stack.set 15 0xFFF }, 15, rfl, rfl, by decide⟩, core0, rfl⟩

/-- The last clause of both skip statements: a skip from 0xFFB reaches 0xFFF. -/
theorem witness_skip_statements :
    (∃ s t : State, exec (.seImm 0 0) s = .next t ∧ s.fault = none ∧ t.pc.toNat ≥ 4095) ∧
    (∃ s t : State, exec (.sneImm 0 1) s = .next t ∧ s.fault = none ∧ t.pc.toNat ≥ 4095) ∧
    (∃ s t : State, exec (.seReg 0 1) s = .next t ∧ s.fault = none ∧ t.pc.toNat ≥ 4095) ∧
    (∃ s t : State, exec (.sneReg 0 1) s = .next t ∧ s.fault = none ∧ t.pc.toNat ≥ 4095) :=
  ⟨⟨{ core0 with pc := 0xFFB }, _, rfl, rfl, by decide⟩, ⟨{ core0 with pc := 0xFFB }, _, rfl, rfl, by decide⟩,
    ⟨{ core0 with pc := 0xFFB }, _, rfl, rfl, by decide⟩, ⟨{ core0 with pc := 0xFFD }, _, rfl, rfl, by decide⟩⟩

theorem witness_JumpGoesToItsAddress : core0.fault = none ∧ (0xFFF#12).toNat ≥ 0xFFF := by decide

theorem witness_CallPushesTheReturnAddress :
    (∃ (s : State) (k : Fin 16), s.sp.val = k.val) ∧ (∃ s : State, s.sp.val = 16) :=
  ⟨⟨{ core0 with sp := 15 }, 15, rfl⟩, { core0 with sp := 16 }, rfl⟩

theorem witness_ReturnGoesToTheInstructionAfterTheCall :
    ∃ s t t' : State, s.sp.val < 16 ∧ exec (.call 0x300) s = .next t ∧ t'.sp = t.sp ∧
      (∀ k : Fin 16, k.val < t.sp.val → t'.stack[k] = t.stack[k]) ∧ t' ≠ t :=
  ⟨{ core0 with sp := 15 }, _, { (ran 0x2300 { core0 with sp := 15 }) with i := 0x123 }, by decide, rfl, by decide,
    by decide, by decide⟩

theorem witness_ShiftsMoveOneBitIntoVf :
    (∃ (s : State) (c : Byte), (s.cfg.shiftSrc = .vx → c = s.v[1]) ∧ (s.cfg.shiftSrc = .vy → c = s.v[2])) ∧
    (∃ (s : State) (c : Byte), s.cfg.shiftSrc = .vy ∧ c = s.v[2] ∧ c ≠ s.v[1]) :=
  ⟨⟨{ core0 with v := regs [(1, 0x81), (2, 0x40)] }, 0x81, by decide, by decide⟩,
    ⟨{ coreVy with v := regs [(1, 0x81), (2, 0x40)] }, 0x40, rfl, by decide, by decide⟩⟩

theorem witness_RandomByteIsMaskedAndUsedByRndOnly :
    ∃ (s t : State) (i : Instr) (keys : Vector Bool 16) (r : Byte) (rest : List StepInput),
      s.inputs = { keys := keys, rnd := r } :: rest ∧ exec i s = .next t ∧ ∀ x kk, i ≠ .rnd x kk :=
  ⟨core0, _, .skp 0, _, _, _, rfl, rfl, by simp⟩

theorem witness_memory_statements_in_range :
    ∃ s : State, s.mem.wf = true ∧ s.i.toNat + 2 < 4096 ∧ ¬ s.i.toNat + 3 < 4096 :=
  ⟨{ core0 with i := 0xFFD, mem := [(0xFFD, 7)] }, by decide, by decide, by decide⟩

theorem witness_memory_statements_out_of_range :
    ∃ s : State, s.mem.wf = true ∧ s.i.toNat + 2 ≥ 4096 ∧ s.i.toNat + 15 ≥ 4096 :=
  ⟨{ core0 with i := 0xFFE }, by decide, by decide, by decide⟩

theorem witness_StoreRegistersFromV0ToVx :
    ∃ s : State, s.mem.wf = true ∧ s.i.toNat + 15 < 4096 ∧ s.cfg.ldstIncI = true :=
  ⟨{ core0 with i := 0xFF0 }, by decide, by decide, rfl⟩

theorem witness_LoadRegistersFromV0ToVx :
    ∃ s : State, s.i.toNat + 15 < 4096 ∧ s.cfg.ldstIncI = false :=
  ⟨{ coreKeepI with i := 0xFF0 }, by decide, rfl⟩

theorem witness_CanonicalMemoriesThatReadAlikeAreEqual :
    ∃ m m' : Memory, m.wf = true ∧ m'.wf = true ∧ ∀ a, a < 4096 → m.read a = m'.read a :=
  ⟨[(4095, 1)], [(4095, 1)], by decide, by decide, fun _ _ => rfl⟩

/-- The last register Fx55 stores, fetched as a word's second byte, and a byte it stores fetched first. -/
theorem witness_StoredBytesAreFetched_store :
    (∃ (s t u : State) (k : Reg) (a : Nat), s.mem.wf = true ∧ u.mem.read a = t.mem.read a ∧
      exec (.storeRegs 15) s = .next t ∧ s.i.toNat + 15 < 4096 ∧ k ≤ 15 ∧ a = s.i.toNat + k.val ∧
      u.pc.toNat + 1 = a) ∧
    (∃ (s t u : State) (k : Reg) (a : Nat), s.mem.wf = true ∧ u.mem.read a = t.mem.read a ∧
      exec (.storeRegs 15) s = .next t ∧ s.i.toNat + 15 < 4096 ∧ k ≤ 15 ∧ a = s.i.toNat + k.val ∧
      u.pc.toNat = a) :=
  ⟨⟨{ core0 with i := 0xFF0 }, _, { (ran 0xFF55 { core0 with i := 0xFF0 }) with pc := 0xFFE }, 15, 0xFFF, by decide,
      by decide, rfl, by decide, by decide, by decide, by decide⟩,
    ⟨{ core0 with i := 0xFF0 }, _, { (ran 0xFF55 { core0 with i := 0xFF0 }) with pc := 0xFF0 }, 0, 0xFF0, by decide,
      by decide, rfl, by decide, by decide, by decide, by decide⟩⟩

/-- The last and the first digit Fx33 stores. -/
theorem witness_StoredBytesAreFetched_bcd :
    (∃ (s t u : State) (a k : Nat), s.mem.wf = true ∧ u.mem.read a = t.mem.read a ∧
      exec (.ldBcd 0) s = .next t ∧ s.i.toNat + 2 < 4096 ∧ k < 3 ∧ a = s.i.toNat + k ∧ u.pc.toNat + 1 = a) ∧
    (∃ (s t u : State) (a k : Nat), s.mem.wf = true ∧ u.mem.read a = t.mem.read a ∧
      exec (.ldBcd 0) s = .next t ∧ s.i.toNat + 2 < 4096 ∧ k < 3 ∧ a = s.i.toNat + k ∧ u.pc.toNat = a) :=
  ⟨⟨{ core0 with i := 0xFFD, v := regs [(0, 156)] }, _,
      { (ran 0xF033 { core0 with i := 0xFFD, v := regs [(0, 156)] }) with pc := 0xFFE }, 0xFFF, 2, by decide,
      by decide, rfl, by decide, by decide, by decide, by decide⟩,
    ⟨{ core0 with i := 0xFFD, v := regs [(0, 156)] }, _,
      { (ran 0xF033 { core0 with i := 0xFFD, v := regs [(0, 156)] }) with pc := 0xFFD }, 0xFFD, 0, by decide,
      by decide, rfl, by decide, by decide, by decide, by decide⟩⟩

theorem witness_draw_statements_in_range :
    (∃ (s : State) (px : Fin 64) (py : Fin 32), s.i.toNat + 1 ≤ 4096 ∧ s.SpriteLights 0 1 1 px py) ∧
    (∃ (s : State) (px : Fin 64) (py : Fin 32), s.i.toNat + 1 ≤ 4096 ∧ ¬ s.SpriteLights 0 1 1 px py) :=
  ⟨⟨{ core0 with i := 0xFFF, mem := [(0xFFF, 0x80)] }, 0, 0, by decide, 0, 0, by decide, by decide, by decide,
      by decide, by decide⟩,
    ⟨core0, 0, 0, by decide, fun h => by
      obtain ⟨row, col, _, _, h3, _⟩ := h
      rw [show core0.mem.read (core0.i.toNat + row) = 0 from rfl] at h3
      simp at h3⟩⟩

theorem witness_draw_statements_out_of_range :
    ∃ s : State, (2 : Fin 16).val ≠ 0 ∧ s.i.toNat + (2 : Fin 16).val > 4096 :=
  ⟨{ core0 with i := 0xFFF }, by decide, by decide⟩

/-- Both flag clauses of the collision statement: a set pixel under the sprite, and none. -/
theorem witness_DrawSetsVfOnCollision :
    (∃ s t : State, exec (.drw 0 1 1) s = .next t ∧ s.i.toNat + 1 ≤ 4096 ∧
      s.disp.pixel 3 0 = true ∧ t.disp.pixel 3 0 = false) ∧
    (∃ s t : State, exec (.drw 0 1 1) s = .next t ∧ s.i.toNat + 1 ≤ 4096 ∧
      ∀ px py, s.disp.pixel px py = true → t.disp.pixel px py = true) :=
  ⟨⟨{ core0 with i := 0x300, mem := [(0x300, 0xFF)], disp := Display.blank.toggle 3 0 }, _, rfl, by decide, by decide,
      by decide⟩,
    ⟨core0, _, rfl, by decide, fun px py h => by
      rw [show core0.disp = Display.blank from rfl, Display.pixel_blank] at h; cases h⟩⟩

/-- The hypotheses of the double draw, on a clear display: the first draw sets pixel (0, 0). -/
theorem witness_DoubleDrawRestoresTheDisplay :
    ∃ s t t' : State, s.i.toNat + 1 ≤ 4096 ∧ exec (.drw 0 1 1) s = .next t ∧ t'.disp = t.disp ∧
      t'.mem = s.mem ∧ t'.i = s.i ∧ t'.v[0] = s.v[0] ∧ t'.v[1] = s.v[1] ∧
      s.disp.pixel 0 0 = false ∧ t.disp.pixel 0 0 = true ∧ s.mem.read (s.i.toNat + 0) ≠ 0 :=
  ⟨{ core0 with i := 0x300, mem := [(0x300, 0x80)] }, _, _, by decide, rfl, rfl, rfl, rfl, by decide, by decide,
    by decide, by decide, by decide⟩

/-- The clauses that give VF = 0: a first draw that only cleared a pixel, and a sprite with no set bit. -/
theorem witness_DoubleDrawRestoresTheDisplay_vf_clear :
    (∃ s t t' : State, s.i.toNat + 1 ≤ 4096 ∧ exec (.drw 0 1 1) s = .next t ∧ t'.disp = t.disp ∧
      t'.mem = s.mem ∧ t'.i = s.i ∧ t'.v[0] = s.v[0] ∧ t'.v[1] = s.v[1] ∧ s.disp.pixel 0 0 = true ∧
      ∀ px py, t.disp.pixel px py = true → s.disp.pixel px py = true) ∧
    (∃ s t t' : State, s.i.toNat + 1 ≤ 4096 ∧ exec (.drw 0 1 1) s = .next t ∧ t'.disp = t.disp ∧
      t'.mem = s.mem ∧ t'.i = s.i ∧ t'.v[0] = s.v[0] ∧ t'.v[1] = s.v[1] ∧
      (∀ px py, s.SpriteLights 0 1 1 px py → s.disp.pixel px py = false) ∧
      ∀ row, row < 1 → s.mem.read (s.i.toNat + row) = 0) := by
  refine ⟨⟨{ core0 with i := 0x300, mem := [(0x300, 0x80)], disp := Display.blank.toggle 0 0 }, _, _, by decide, rfl,
    rfl, rfl, rfl, by decide, by decide, by decide, fun px py h => ?_⟩,
    ⟨core0, _, _, by decide, rfl, rfl, rfl, rfl, by decide, by decide, fun _ _ _ => Display.pixel_blank _ _,
      fun _ _ => rfl⟩⟩
  have e : (Display.toggle (Display.blank.toggle 0 0) 0 0).pixel px py = true := h
  simp [Display.pixel_toggle] at e

/-- The Loader's invariant clause, from a core that has run. -/
theorem witness_InvariantHoldsAfterBoot : ∃ s : State, s.Inv ∧ s.pc = 0x202 :=
  ⟨ran 0x6A2F core0, ⟨by decide, by decide, by decide, (fun r h => by cases (show none = some r from h)),
    (fun _ r h => by cases (show Status.retired = .faulted r from h))⟩, by decide⟩

theorem witness_SkipTestsTheKeyNumberedVx :
    (∃ (s : State) (k : Fin 16), s.v[(0 : Reg)].toNat = k.val ∧ s.input.keys[k] = true) ∧
    (∃ s : State, s.v[(0 : Reg)].toNat ≥ 16) :=
  ⟨⟨{ core0 with v := regs [(0, 15)], inputs := [oneKey 15] }, 15, by decide, by decide⟩,
    ⟨{ core0 with v := regs [(0, 16)] }, by decide⟩⟩

theorem witness_KeyWaitLoadsTheLowestKeyOrParks :
    (∃ (s : State) (k : Fin 16), s.input.keys[k] = true ∧ ∀ j : Fin 16, j < k → s.input.keys[j] = false) ∧
    (∃ s : State, (∀ k : Fin 16, s.input.keys[k] = false) ∧ s.Runs (.ldVxKey 0)) :=
  ⟨⟨{ core0 with inputs := [oneKey 15] }, 15, by decide, by decide⟩,
    ⟨at200 0xF00A core0, by decide, rfl, by decide, by decide⟩⟩

theorem witness_KeyWaitCompletesOnTheFirstPressedSample :
    ∃ (s : State) (idle : List StepInput) (inp : StepInput) (rest : List StepInput),
      s.Runs (.ldVxKey 0) ∧ s.inputs = idle ++ inp :: rest ∧ idle.length = 2 ∧
      (∀ e ∈ idle, ∀ k : Fin 16, e.keys[k] = false) ∧ ∃ k : Fin 16, inp.keys[k] = true :=
  ⟨at200 0xF00A { core0 with inputs := [noKeys, noKeys, oneKey 9] }, [noKeys, noKeys], oneKey 9, [],
    ⟨rfl, by decide, by decide⟩, rfl, rfl, by decide, 9, by decide⟩

theorem witness_ReadDelayTimerLoadsDt : (at200 0xF007 { core0 with dt := 1 }).Runs (.ldVxDt 0) :=
  ⟨rfl, by decide, by decide⟩

theorem witness_WriteTimersBeforeTheTick :
    (at200 0xF115 core0).Runs (.ldDtVx 1) ∧ (at200 0xF118 core0).Runs (.ldStVx 1) :=
  ⟨⟨rfl, by decide, by decide⟩, ⟨rfl, by decide, by decide⟩⟩

/-- The Loader's statements take any memory in canonical form, an empty and a filled one among them. -/
theorem witness_Loader_statements :
    core0.mem.wf = true ∧ ∃ s : State, s.mem = [(0x4F, 1), (0x50, 2), (0xFFF, 3)] ∧ s.mem.wf = true :=
  ⟨by decide, { core0 with mem := [(0x4F, 1), (0x50, 2), (0xFFF, 3)] }, rfl, by decide⟩

theorem witness_LoadProgramCopiesTheRom :
    (∃ bytes : List Byte, bytes.length ≤ 3584 ∧ ¬ bytes.length + 1 ≤ 3584) ∧
    (∃ bytes : List Byte, bytes.length > 3584) :=
  ⟨⟨List.replicate 3584 1, by rw [List.length_replicate], by rw [List.length_replicate]; decide⟩,
    ⟨List.replicate 3585 1, by rw [List.length_replicate]; decide⟩⟩

end Sys2Proof.Tests
end

section
/-! What the execute phase does to SP: one equation per outcome of CALL and RET, and that every other instruction keeps it. -/

namespace Sys2Proof.Machine

theorem exec_call_of_lt (nnn : Addr) (s : State) (h : s.sp.val < 16) :
    exec (.call nnn) s = .next ((s.push (s.pc + 2) h).retire (zext16Addr nnn)) := by
  simp [exec, execCall, h]

theorem exec_call_of_full (nnn : Addr) (s : State) (h : s.sp.val = 16) :
    exec (.call nnn) s = .next (s.raise .stackOverflow (some (encode (.call nnn))) none) := by
  simp [exec, execCall, h]

theorem exec_ret_of_ne_zero (s : State) (h : s.sp.val ≠ 0) :
    exec .ret s = .next (s.pop.retire (s.top h)) := by
  simp only [exec, execRet, dif_pos h]

theorem exec_ret_of_empty (s : State) (h : s.sp.val = 0) :
    exec .ret s = .next (s.raise .stackUnderflow (some (encode .ret)) none) := by
  simp only [exec, execRet, dif_neg (not_not.mpr h)]

/-- An access check keeps SP when what it guards does. -/
theorem State.checked_sp (s : State) (op : Word) (bad : Option Nat) (done : State)
    (hd : done.sp = s.sp) : (s.checked op bad done).sp = s.sp := by
  rcases s.checked_cases op bad done with ⟨-, h⟩ | ⟨a, -, h⟩
  · rw [h, hd]
  · rw [h, State.raise_sp]

/-- Every instruction but CALL and RET keeps SP (R26). -/
theorem exec_keeps_sp {i : Instr} {s t : State} (h : exec i s = .next t)
    (hcall : ∀ nnn, i ≠ .call nnn) (hret : i ≠ .ret) : t.sp = s.sp := by
  cases i
  case call nnn => exact absurd rfl (hcall nnn)
  case ret => exact absurd rfl hret
  case skp x =>
    simp only [exec, execSkp] at h
    split at h <;> (cases h; rfl)
  case sknp x =>
    simp only [exec, execSknp] at h
    split at h <;> (cases h; rfl)
  case ldVxKey x =>
    cases h
    split <;> rfl
  case drw x y n => cases h; exact s.checked_sp _ _ _ rfl
  case ldBcd x => cases h; exact s.checked_sp _ _ _ rfl
  case storeRegs x => cases h; exact s.checked_sp _ _ _ rfl
  case loadRegs x => cases h; exact s.checked_sp _ _ _ rfl
  all_goals cases h; rfl

/-- CALL raises SP by one, or faults and keeps it with 16 entries held (R102). -/
theorem exec_call_sp {nnn : Addr} {s t : State} (h : exec (.call nnn) s = .next t) :
    (s.sp.val < 16 ∧ t.sp.val = s.sp.val + 1) ∨ (s.sp.val = 16 ∧ t.fault ≠ none ∧ t.sp = s.sp) := by
  by_cases hroom : s.sp.val < 16
  · rw [exec_call_of_lt nnn s hroom] at h
    cases h
    exact .inl ⟨hroom, rfl⟩
  · have hfull : s.sp.val = 16 := by omega
    rw [exec_call_of_full nnn s hfull] at h
    cases h
    exact .inr ⟨hfull, by simp, rfl⟩

/-- RET lowers SP by one, or faults and keeps it with no entry held (R100). -/
theorem exec_ret_sp {s t : State} (h : exec .ret s = .next t) :
    (s.sp.val ≠ 0 ∧ s.sp.val = t.sp.val + 1) ∨ (s.sp.val = 0 ∧ t.fault ≠ none ∧ t.sp = s.sp) := by
  by_cases hempty : s.sp.val = 0
  · rw [exec_ret_of_empty s hempty] at h
    cases h
    exact .inr ⟨hempty, by simp, rfl⟩
  · rw [exec_ret_of_ne_zero s hempty] at h
    cases h
    refine .inl ⟨hempty, ?_⟩
    simp only [State.retire_sp, State.pop_sp]
    omega

/-- Settles O21: SP is bounded by its type, CALL and RET change it by one or fault and keep it, and every
other instruction keeps it. -/
theorem onlyCallAndReturnChangeSp : Obligations.OnlyCallAndReturnChangeSp := by
  unfold Obligations.OnlyCallAndReturnChangeSp
  intro s t i h
  refine ⟨Nat.le_of_lt_succ t.sp.isLt, ?overflow, ?underflow, ?changed⟩
  case overflow =>
    rintro ⟨nnn, rfl⟩ hfull
    obtain ⟨hroom, -⟩ | ⟨-, hfatal⟩ := exec_call_sp h
    · omega
    · exact hfatal
  case underflow =>
    rintro rfl hempty
    obtain ⟨hheld, -⟩ | ⟨-, hfatal⟩ := exec_ret_sp h
    · exact absurd hempty hheld
    · exact hfatal
  case changed =>
    intro hsp
    by_cases hcall : ∃ nnn, i = .call nnn
    · obtain ⟨nnn, rfl⟩ := hcall
      obtain ⟨-, hinc⟩ | ⟨-, -, hkept⟩ := exec_call_sp h
      · exact .inl ⟨⟨nnn, rfl⟩, hinc⟩
      · exact absurd hkept hsp
    · by_cases hret : i = .ret
      · subst hret
        obtain ⟨-, hdec⟩ | ⟨-, -, hkept⟩ := exec_ret_sp h
        · exact .inr ⟨rfl, hdec⟩
        · exact absurd hkept hsp
      · exact absurd (exec_keeps_sp h (not_exists.mp hcall) hret) hsp

end Sys2Proof.Machine
end

section
/-! Which words are legal: what each family's decoder accepts, then the whole decoder (30_encoding.md R76). -/

namespace Sys2Proof

/-- Family 0x0 accepts two words. -/
theorem decodeFix_legal_iff (w : Word) :
    (∃ i, decodeFix w = .instr i) ↔ w.toNat = 0x00E0 ∨ w.toNat = 0x00EE := by
  unfold decodeFix
  split <;> simp_all

/-- Family 0x8 accepts the selector nibbles 0 to 7 and 0xE. -/
theorem decodeAlu_legal_iff (w : Word) :
    (∃ i, decodeAlu w = .instr i) ↔ w.toNat % 16 ≤ 7 ∨ w.toNat % 16 = 0xE := by
  rw [← opN_val]
  unfold decodeAlu
  split
  case h_10 =>
    simp only [imp_false] at *
    simp only [reduceCtorEq, exists_false, false_iff]
    omega
  all_goals simp_all

/-- Family 0xE accepts two selector bytes. -/
theorem decodeKey_legal_iff (w : Word) :
    (∃ i, decodeKey w = .instr i) ↔ w.toNat % 256 ∈ [0x9E, 0xA1] := by
  rw [← opKK_toNat]
  unfold decodeKey
  split <;> simp_all

/-- Family 0xF accepts nine selector bytes. -/
theorem decodeMisc_legal_iff (w : Word) :
    (∃ i, decodeMisc w = .instr i) ↔
      w.toNat % 256 ∈ [0x07, 0x0A, 0x15, 0x18, 0x1E, 0x29, 0x33, 0x55, 0x65] := by
  rw [← opKK_toNat]
  unfold decodeMisc
  split <;> simp_all

/-- Families 0x5 and 0x9 accept the selector nibble 0. -/
theorem ite_opN_legal_iff (w : Word) (i : Instr) :
    (∃ j, (if opN w = 0 then Decoded.instr i else .illegal w) = .instr j) ↔ w.toNat % 16 = 0 := by
  have hn : opN w = 0 ↔ w.toNat % 16 = 0 := by rw [← opN_val, Fin.ext_iff]; rfl
  rw [← hn]
  split <;> simp_all

/-- A word with no instruction is illegal, and the verdict carries that word (R77). -/
theorem decode_not_instr_iff (w : Word) :
    (¬ ∃ i, decode w = .instr i) ↔ decode w = .illegal w := by
  cases h : decode w with
  | instr i => simp
  | illegal op => simp [decode_illegal_word w op h]

/-- Settles O4, family by family: a family with no pattern digit beyond its first accepts every word. -/
theorem legalWordsMatchEveryPatternDigit : Obligations.LegalWordsMatchEveryPatternDigit := by
  unfold Obligations.LegalWordsMatchEveryPatternDigit
  intro w
  refine ⟨?_, decode_not_instr_iff w⟩
  have hfamily : w.toNat / 4096 < 16 := by have := w.isLt; omega
  rw [decode, opT_eq]
  split
  case h_1 h => simp [h, decodeFix_legal_iff]
  case h_6 h => simp [h, ite_opN_legal_iff]
  case h_9 h => simp [h, decodeAlu_legal_iff]
  case h_10 h => simp [h, ite_opN_legal_iff]
  case h_15 h => simp [h, decodeKey_legal_iff]
  case h_16 h => simp [h, decodeMisc_legal_iff]
  case h_17 =>
    simp only [imp_false] at *
    omega
  all_goals
    rename_i h
    simp [h]

end Sys2Proof
end

section
/-! The pc after the execute phase (30_encoding.md R92): what a skip, an access check and a plain instruction make of it, then every instruction. -/

namespace Sys2Proof.Machine

/-- `p + 2`, as the table writes it. -/
theorem State.pc_add_two (s : State) : s.pc + 2 = BitVec.ofNat 16 (s.pc.toNat + 2) := by
  rw [BitVec.ofNat_add, BitVec.ofNat_toNat, BitVec.setWidth_eq]; rfl

/-- An address as the table writes it. -/
theorem zext16Addr_eq_ofNat (a : Addr) : zext16Addr a = BitVec.ofNat 16 a.toNat :=
  (BitVec.ofNat_toNat 16 a).symm

/-- A byte as the table writes it. -/
theorem zext16Byte_eq_ofNat (b : Byte) : zext16Byte b = BitVec.ofNat 16 b.toNat :=
  (BitVec.ofNat_toNat 16 b).symm

/-- `c ? p + 4 : p + 2`, as the table writes it. -/
theorem State.skipIf_pc_of_iff (s : State) {c : Bool} {P : Prop} [Decidable P] (h : c = true ↔ P) :
    (s.skipIf c).pc = BitVec.ofNat 16 (if P then s.pc.toNat + 4 else s.pc.toNat + 2) := by
  apply BitVec.eq_of_toNat_eq
  rw [State.skipIf_pc_toNat, BitVec.toNat_ofNat]
  by_cases hP : P
  · rw [if_pos (h.mpr hP), if_pos hP]
  · rw [if_neg (mt h.mp hP), if_neg hP]

/-- An access check that leaves no fault went on to what it guards. -/
theorem State.checked_eq_of_no_fault {s : State} {op : Word} {bad : Option Nat} {done : State}
    (h : (s.checked op bad done).fault = none) : s.checked op bad done = done := by
  rcases s.checked_cases op bad done with ⟨-, hc⟩ | ⟨a, -, hc⟩
  · exact hc
  · rw [hc] at h
    cases h

/-- What a checked instruction that retires to p + 2 makes of the pc, if its check passes. -/
theorem State.checked_pc {s : State} {op : Word} {bad : Option Nat} {done : State}
    (h : (s.checked op bad done).fault = none) (hd : done.pc = s.pc + 2) :
    (s.checked op bad done).pc = BitVec.ofNat 16 (s.pc.toNat + 2) := by
  rw [State.checked_eq_of_no_fault h, hd, State.pc_add_two]

/-- The key SKP and SKNP test is the one the table reads. -/
theorem key_eq_iff_table (keys : Vector Bool 16) {k : Nat} (h : k < 16) (b : Bool) :
    keys[k] = b ↔ keys.toList[k]? = some b := by
  simp [h]

/-- The entry RET pops is the one the table reads. -/
theorem State.top_eq_table (s : State) (h : s.sp.val ≠ 0) (p : Nat) :
    s.top h = BitVec.ofNat 16 ((s.stack.toList[s.sp.val - 1]?.map BitVec.toNat).getD p) := by
  have hlt : s.sp.val - 1 < 16 := by omega
  simp [State.top, hlt]

/-- Fx0A goes on when a key is down and stays when none is (R222). -/
theorem exec_ldVxKey_pc {x : Reg} {s t : State} (h : exec (.ldVxKey x) s = .next t) :
    t.pc = BitVec.ofNat 16
      (if ∃ k : Fin 16, s.input.keys[k] = true then s.pc.toNat + 2 else s.pc.toNat) := by
  cases h
  cases hk : s.lowestKey with
  | some k =>
    rw [if_pos ⟨k, ((s.lowestKey_eq_some k).mp hk).1⟩]
    exact s.pc_add_two
  | none =>
    rw [if_neg (by simp [(s.lowestKey_eq_none).mp hk])]
    simp

/-- The pc of every instruction that does not fault is the table's (R92). -/
theorem exec_pc_eq_table {i : Instr} {s t : State} (h : exec i s = .next t) (hf : t.fault = none) :
    t.pc = BitVec.ofNat 16 (tablePc s s.pc.toNat i) := by
  cases i
  case seImm x kk => cases h; exact s.skipIf_pc_of_iff beq_iff_eq
  case sneImm x kk => cases h; exact s.skipIf_pc_of_iff bne_iff_ne
  case seReg x y => cases h; exact s.skipIf_pc_of_iff beq_iff_eq
  case sneReg x y => cases h; exact s.skipIf_pc_of_iff bne_iff_ne
  case skp x =>
    simp only [exec, execSkp] at h
    split at h
    case isTrue hx => cases h; exact s.skipIf_pc_of_iff (key_eq_iff_table s.input.keys hx true)
    case isFalse => cases h; cases hf
  case sknp x =>
    simp only [exec, execSknp] at h
    split at h
    case isTrue hx => cases h; exact s.skipIf_pc_of_iff (by
      rw [Bool.not_eq_true']
      exact key_eq_iff_table s.input.keys hx false)
    case isFalse => cases h; cases hf
  case ret =>
    by_cases hsp : s.sp.val = 0
    · rw [exec_ret_of_empty s hsp] at h
      cases h; cases hf
    · rw [exec_ret_of_ne_zero s hsp] at h
      cases h
      exact s.top_eq_table hsp _
  case call nnn =>
    by_cases hroom : s.sp.val < 16
    · rw [exec_call_of_lt nnn s hroom] at h
      cases h
      exact zext16Addr_eq_ofNat nnn
    · rw [exec_call_of_full nnn s (by omega)] at h
      cases h; cases hf
  case jp nnn => cases h; exact zext16Addr_eq_ofNat nnn
  case jpV0 nnn =>
    cases h
    rw [tablePc, BitVec.ofNat_add, ← zext16Addr_eq_ofNat, ← zext16Byte_eq_ofNat]
    rfl
  case ldVxKey x => exact exec_ldVxKey_pc h
  case drw x y n => cases h; exact State.checked_pc hf rfl
  case ldBcd x => cases h; exact State.checked_pc hf rfl
  case storeRegs x => cases h; exact State.checked_pc hf rfl
  case loadRegs x => cases h; exact State.checked_pc hf rfl
  all_goals cases h; exact s.pc_add_two

/-- Settles O24: an instruction either keeps the fault register, and then follows the table, or does
nothing but raise a fault. -/
theorem nextPcFollowsTheTable : Obligations.NextPcFollowsTheTable := by
  unfold Obligations.NextPcFollowsTheTable
  intro i s hs
  obtain ⟨t, ht, hkept | ⟨k, a, rfl⟩⟩ := exec_cases i s
  · exact ⟨t, ht, exec_pc_eq_table ht, fun hfault => absurd (hkept.trans hs) hfault⟩
  · exact ⟨_, ht, exec_pc_eq_table ht, fun _ => State.raise_pc s k _ a⟩

end Sys2Proof.Machine
end

section
/-! The fetch: taking a fault is framed, and the word at pc is the one that is decoded (30_encoding.md R87, R88; 60_exceptions.md R268). -/

namespace Sys2Proof.Machine

/-- Taking a fault changes the fault register and the step's result only (R268). -/
theorem State.raise_onlyChanges (s : State) (k : FaultKind) (op : Option Word) (a : Option Nat) :
    OnlyChanges s (s.raise k op a) (· ∈ faultParts) := by
  intro p hp
  cases p
  case fault => exact absurd (by decide) hp
  case status => exact absurd (by decide) hp
  case sound => exact absurd (by decide) hp
  all_goals rfl

/-- With pc + 1 of 4096 or more the fetch fails (R87). -/
theorem State.nextFetchFails_of_ge {s : State} (hs : s.fault = none) (hp : 4096 ≤ s.pc.toNat + 1) :
    s.NextFetchFails :=
  ⟨hs, _, _, step_of_fetch_fault s hs hp, rfl, rfl, rfl, s.raise_onlyChanges _ _ _⟩

/-- The big-endian word of the bytes at pc and pc + 1 is the word at pc (R56, R87). -/
theorem State.eq_wordAtPc_of_toNat {s : State} {op : Word}
    (h : op.toNat = (s.mem.read s.pc.toNat).toNat * 256 + (s.mem.read (s.pc.toNat + 1)).toNat) :
    op = s.wordAtPc :=
  BitVec.eq_of_toNat_eq (h.trans s.wordAtPc_toNat.symm)

/-- Settles O6: the step's own cases, with the word named by its two bytes. -/
theorem fetchCombinesTwoBytesBigEndian : Obligations.FetchCombinesTwoBytesBigEndian := by
  unfold Obligations.FetchCombinesTwoBytesBigEndian
  intro s hs
  refine ⟨State.nextFetchFails_of_ge hs, fun hp op hop => ?_⟩
  obtain rfl := State.eq_wordAtPc_of_toNat hop
  refine ⟨fun i t hi ht => step_of_runs s t i ⟨hs, hp, hi⟩ ht, fun w hw => ?_⟩
  obtain rfl := decode_illegal_word _ _ hw
  exact ⟨_, _, step_of_illegal s _ hs hp hw, rfl, rfl, rfl, s.raise_onlyChanges _ _ _⟩

end Sys2Proof.Machine
end

section
/-! The words of the control-flow instructions decode to them (30_encoding.md R75, R76). -/

namespace Sys2Proof

theorem decode_packNNN_jp (nnn : Addr) : decode (packNNN 0x1 nnn) = .instr (.jp nnn) := by
  simp [decode]

theorem decode_packNNN_call (nnn : Addr) : decode (packNNN 0x2 nnn) = .instr (.call nnn) := by
  simp [decode]

theorem decode_packXKK_seImm (x : Reg) (kk : Byte) :
    decode (packXKK 0x3 x kk) = .instr (.seImm x kk) := by
  simp [decode]

theorem decode_packXKK_sneImm (x : Reg) (kk : Byte) :
    decode (packXKK 0x4 x kk) = .instr (.sneImm x kk) := by
  simp [decode]

theorem decode_packXYN_seReg (x y : Reg) : decode (packXYN 0x5 x y 0) = .instr (.seReg x y) := by
  simp [decode]

theorem decode_packXYN_sneReg (x y : Reg) : decode (packXYN 0x9 x y 0) = .instr (.sneReg x y) := by
  simp [decode]

end Sys2Proof
end

section
/-! Jumps, skips, CALL and RET (40_control_flow.md): the entry a push writes and a return pops, what a skip leaves, then each instruction. -/

namespace Sys2Proof.Machine

/-- A push writes entry SP and leaves the others (R27). -/
theorem State.push_stack_get (s : State) (w : Word) (h : s.sp.val < 16) (k : Fin 16) :
    (s.push w h).stack[k] = if s.sp.val = k.val then w else s.stack[k] := by
  simp only [State.push_stack, Fin.getElem_fin, Vector.getElem_set]

/-- With SP = k + 1 a return pops entry k (R27). -/
theorem State.top_eq_stack (s : State) (h : s.sp.val ≠ 0) {k : Fin 16} (hk : s.sp.val = k.val + 1) :
    s.top h = s.stack[k] := by
  simp [State.top, hk]

/-- `p + 2` of a 16-bit pc, as an integer (R8). -/
theorem State.pc_add_two_toNat (s : State) : (s.pc + 2).toNat = (s.pc.toNat + 2) % 65536 := by
  rw [State.pc_add_two, BitVec.toNat_ofNat]

/-- An address keeps its value in 16 bits (R8). -/
theorem zext16Addr_toNat (a : Addr) : (zext16Addr a).toNat = a.toNat :=
  BitVec.toNat_setWidth_of_le (by decide)

/-- A retiring instruction that does not write the fault register and leaves a pc of 4095 or more is
followed by a failing fetch (R87). -/
theorem State.retire_nextFetchFails {s : State} {p : Word} (hs : s.fault = none) (hp : 4095 ≤ p.toNat) :
    (s.retire p).NextFetchFails :=
  State.nextFetchFails_of_ge hs (Nat.succ_le_succ hp)

/-- What a skip on the condition `P` answers: the pc moves by 4 or 2, the registers stay, and a new pc
of 4095 or more makes the next fetch fail (R89, R92, R87). -/
theorem exec_skip_outcome {i : Instr} {s : State} {c : Bool} {P : Prop} [Decidable P]
    (he : exec i s = .next (s.skipIf c)) (hc : c = true ↔ P) :
    ∃ t, exec i s = .next t ∧ t.v = s.v ∧ t.status = .retired ∧
      t.pc.toNat = (s.pc.toNat + if P then 4 else 2) % 65536 ∧
      (s.fault = none → t.pc.toNat ≥ 4095 → t.NextFetchFails) := by
  refine ⟨_, he, rfl, rfl, ?_, fun hs hp => State.retire_nextFetchFails hs hp⟩
  simp only [State.skipIf_pc_toNat, hc]

/-- Settles O25: with an entry held RET pops it, with none it only raises the fault. -/
theorem returnPopsTheCallStack : Obligations.ReturnPopsTheCallStack := by
  unfold Obligations.ReturnPopsTheCallStack
  refine ⟨by decide, fun s => ⟨fun k hk => ?held, fun hempty => ?empty⟩⟩
  case held =>
    have hne : s.sp.val ≠ 0 := by omega
    have htop : s.top hne = s.stack[k] := s.top_eq_stack hne hk
    rw [exec_ret_of_ne_zero s hne, htop]
    refine ⟨_, rfl, ?_, rfl, rfl, rfl, rfl, fun hs hp => State.retire_nextFetchFails hs hp⟩
    simp [hk]
  case empty =>
    exact ⟨_, _, exec_ret_of_empty s hempty, rfl, rfl, s.raise_onlyChanges _ _ _⟩

/-- Settles O26: the jump retires to its address, whatever the address is. -/
theorem jumpGoesToItsAddress : Obligations.JumpGoesToItsAddress := by
  unfold Obligations.JumpGoesToItsAddress
  intro nnn s
  refine ⟨decode_packNNN_jp nnn, _, rfl, zext16Addr_toNat nnn, rfl, rfl, fun hs hp => ?_⟩
  exact State.retire_nextFetchFails hs (hp.trans_eq (zext16Addr_toNat nnn).symm)

/-- Settles O27: with room CALL pushes p + 2 and jumps, with none it only raises the fault. -/
theorem callPushesTheReturnAddress : Obligations.CallPushesTheReturnAddress := by
  unfold Obligations.CallPushesTheReturnAddress
  refine fun nnn s => ⟨decode_packNNN_call nnn, fun k hk => ?room, fun hfull => ?full⟩
  case room =>
    have hroom : s.sp.val < 16 := hk ▸ k.isLt
    refine ⟨_, exec_call_of_lt nnn s hroom, congrArg (· + 1) hk, ?pushed, fun j hj => ?kept,
      zext16Addr_toNat nnn, rfl, rfl⟩
    case pushed => rw [State.retire_stack, State.push_stack_get, if_pos hk, State.pc_add_two_toNat]
    case kept =>
      have hne : s.sp.val ≠ j.val := fun h => hj (Fin.ext (h.symm.trans hk))
      rw [State.retire_stack, State.push_stack_get, if_neg hne]
  case full =>
    exact ⟨_, _, exec_call_of_full nnn s hfull, rfl, rfl, s.raise_onlyChanges _ _ _⟩

/-- Settles O29: both skips on an immediate are skips on the comparison they name. -/
theorem skipComparesWithTheImmediate : Obligations.SkipComparesWithTheImmediate := by
  unfold Obligations.SkipComparesWithTheImmediate
  intro x kk s
  exact ⟨decode_packXKK_seImm x kk, decode_packXKK_sneImm x kk,
    exec_skip_outcome rfl beq_iff_eq, exec_skip_outcome rfl bne_iff_ne⟩

/-- Settles O30: both skips on two registers are skips on the comparison they name. -/
theorem skipComparesRegisters : Obligations.SkipComparesRegisters := by
  unfold Obligations.SkipComparesRegisters
  intro x y s
  exact ⟨decode_packXYN_seReg x y, decode_packXYN_sneReg x y,
    exec_skip_outcome rfl beq_iff_eq, exec_skip_outcome rfl bne_iff_ne⟩

end Sys2Proof.Machine
end

section
/-! The words of the loads and of ADD Vx, kk decode to them (30_encoding.md R75, R76). -/

namespace Sys2Proof

theorem decode_packXKK_ldImm (x : Reg) (kk : Byte) :
    decode (packXKK 0x6 x kk) = .instr (.ldImm x kk) := by
  simp [decode]

theorem decode_packXKK_addImm (x : Reg) (kk : Byte) :
    decode (packXKK 0x7 x kk) = .instr (.addImm x kk) := by
  simp [decode]

theorem decode_packXYN_ldReg (x y : Reg) : decode (packXYN 0x8 x y 0) = .instr (.ldReg x y) := by
  simp [decode, decodeAlu]

end Sys2Proof
end

section
/-! Instructions that write one register and go on (41_alu.md): what the write and the retirement leave, then the loads and ADD Vx, kk. -/

namespace Sys2Proof.Machine

/-- Writing Vx and retiring changes Vx, pc and the status only (R11). -/
theorem State.setV_retireNext_onlyChanges (s : State) (x : Reg) (b : Byte) :
    OnlyChanges s (s.setV x b).retireNext (· ∈ [.v x, .pc, .status]) := by
  intro p hp
  cases p
  case v r =>
    have hne : r ≠ x := by
      rintro rfl
      exact hp List.mem_cons_self
    exact (s.setV_get x r b).trans (if_neg hne)
  case pc => exact absurd (by simp) hp
  case status => exact absurd (by simp) hp
  all_goals rfl

/-- What an instruction that writes `b` to Vx and retires answers: Vx is `b`, the other registers, VF
among them, stay, and nothing but Vx, pc and the status changes (R11, R22, R92). -/
theorem exec_setV_outcome {i : Instr} {s : State} {x : Reg} {b : Byte}
    (he : exec i s = .next (s.setV x b).retireNext) :
    ∃ t, exec i s = .next t ∧ t.v[x] = b ∧ (∀ r, r ≠ x → t.v[r] = s.v[r]) ∧
      t.pc = s.pc + 2 ∧ t.status = .retired ∧ OnlyChanges s t (· ∈ [.v x, .pc, .status]) :=
  ⟨_, he, (s.setV_get x x b).trans (if_pos rfl), fun r hr => (s.setV_get x r b).trans (if_neg hr),
    rfl, rfl, s.setV_retireNext_onlyChanges x b⟩

/-- Settles O32: both loads write their operand to Vx and retire. -/
theorem loadsWriteTheDestination : Obligations.LoadsWriteTheDestination := by
  unfold Obligations.LoadsWriteTheDestination
  intro x y kk s
  exact ⟨decode_packXKK_ldImm x kk, decode_packXYN_ldReg x y,
    exec_setV_outcome rfl, exec_setV_outcome rfl⟩

/-- Settles O33: the sum of two bytes wraps at 256, and the write of Vx is the only one. -/
theorem addImmediateWrapsAndSetsNoFlag : Obligations.AddImmediateWrapsAndSetsNoFlag := by
  unfold Obligations.AddImmediateWrapsAndSetsNoFlag
  intro x kk s
  obtain ⟨t, he, hx, hkept, hpc, hstatus, -⟩ :=
    exec_setV_outcome (i := .addImm x kk) (s := s) (x := x) (b := s.reg x + kk) rfl
  refine ⟨decode_packXKK_addImm x kk, t, he, ?_, hkept, hpc, hstatus⟩
  rw [hx, BitVec.toNat_add]

end Sys2Proof.Machine
end

section
/-! The index register's load (42_memory_index.md R170): its word decodes to it, and it accepts every address. -/

namespace Sys2Proof

theorem decode_packNNN_ldI (nnn : Addr) : decode (packNNN 0xA nnn) = .instr (.ldI nnn) := by
  simp [decode]

end Sys2Proof

namespace Sys2Proof.Machine

/-- Settles O39: the load writes its address, widened to 16 bits, to I and retires. -/
theorem loadIndexAcceptsEveryAddress : Obligations.LoadIndexAcceptsEveryAddress := by
  unfold Obligations.LoadIndexAcceptsEveryAddress
  intro nnn s
  exact ⟨decode_packNNN_ldI nnn, _, rfl, zext16Addr_toNat nnn, rfl, rfl, rfl⟩

end Sys2Proof.Machine
end

section
/-! CLS (43_display.md R200): its word decodes to it, and it answers the blank display, retired. -/

namespace Sys2Proof

theorem decode_clsWord : decode 0x00E0#16 = .instr .cls := by
  decide

end Sys2Proof

namespace Sys2Proof.Machine

theorem exec_cls (s : State) :
    exec .cls s = .next { s with disp := Display.blank }.retireNext := rfl

/-- Settles O47: CLS replaces the whole display by the blank one, whatever it was, and retires. -/
theorem clearDisplayClearsEveryPixel : Obligations.ClearDisplayClearsEveryPixel := by
  unfold Obligations.ClearDisplayClearsEveryPixel
  refine ⟨decode_clsWord, fun s => ⟨_, exec_cls s, fun px py => ?cleared, rfl, rfl, rfl, rfl, rfl⟩⟩
  case cleared => rw [State.retireNext_disp, Display.pixel_blank]

end Sys2Proof.Machine
end

section
/-! LD Vx, DT (45_timers.md R240): its word decodes to it, and the tick of its own step comes after the read. -/

namespace Sys2Proof

/-- The word of format `XSS` with its fixed digits added up before x (R72). -/
theorem packXKK_eq_fixed_add_x (t : Nat) (x : Reg) (kk : Byte) :
    packXKK t x kk = BitVec.ofNat 16 (t * 4096 + kk.toNat + x.val * 256) := by
  rw [packXKK, Nat.add_right_comm]

theorem decode_packXKK_ldVxDt (x : Reg) : decode (packXKK 0xF x 0x07) = .instr (.ldVxDt x) := by
  simp [decode, decodeMisc]

end Sys2Proof

namespace Sys2Proof.Machine

/-- A step that runs an instruction to a state without a fault ticks that state and uses up its inputs
(R85, R90). -/
theorem step_of_runs_no_fault {s t : State} {i : Instr} (hr : s.Runs i) (he : exec i s = .next t)
    (hf : t.fault = none) : step s = .next t.tick.nextInput := by
  rw [step_of_runs s t i hr he, State.afterExecute, hf]

/-- Settles O54: the execute phase copies DT to Vx and keeps DT, and the tick then counts DT down. -/
theorem readDelayTimerLoadsDt : Obligations.ReadDelayTimerLoadsDt := by
  unfold Obligations.ReadDelayTimerLoadsDt
  intro x s
  obtain ⟨t, he, hx, hkept, hpc, hstatus, hframe⟩ :=
    exec_setV_outcome (i := .ldVxDt x) (s := s) (x := x) (b := s.dt) rfl
  have hdt : t.dt = s.dt := hframe .dt (by simp)
  have hfault : t.fault = s.fault := hframe .fault (by simp)
  refine ⟨?decodes, ⟨t, he, hx, hkept, hdt, hpc, hstatus⟩, fun hr => ?steps⟩
  case decodes => exact packXKK_eq_fixed_add_x 0xF x 0x07 ▸ decode_packXKK_ldVxDt x
  case steps =>
    have hstep := step_of_runs_no_fault hr he (hfault.trans hr.1)
    exact ⟨_, hstep, by simp [hx], by simp [hdt]⟩

end Sys2Proof.Machine
end

section
/-! Consecutive writes of a byte list, beyond the laws of memory: the byte each offset reads, and that writing what is already there changes nothing. -/

namespace Sys2Proof.Machine

/-- After consecutive writes the byte at offset `k` of the range is the list's byte `k` (R55). -/
theorem Memory.read_writeBytes_of_getElem? {m : Memory} {a k : Nat} {bs : List Byte} {b : Byte}
    (hm : m.wf = true) (hfit : a + bs.length ≤ 4096) (hb : bs[k]? = some b) :
    (m.writeBytes a bs).read (a + k) = b := by
  obtain ⟨hk, hbyte⟩ := List.getElem?_eq_some_iff.mp hb
  rw [Memory.read_writeBytes bs m a (a + k) hm hfit, dif_pos (by omega)]
  simpa using hbyte

/-- Writing back the byte an address reads as leaves a canonical memory the same list. -/
theorem Memory.write_read_self {lo : Nat} (a : Nat) :
    ∀ m : Memory, m.wfFrom lo = true → m.write a (m.read a) = m
  | [], _ => rfl
  | (k, c) :: m, hm => by
    obtain ⟨-, -, hc, hrest⟩ := (Memory.wfFrom_cons lo k c m).mp hm
    rw [Memory.read_cons]
    unfold Memory.write Memory.unlisted
    obtain hlt | rfl | hgt := lt_trichotomy k a
    · rw [if_pos hlt, if_neg hlt.ne, Memory.write_read_self a m hrest]
    · rw [if_neg (lt_irrefl k), if_pos rfl, if_pos rfl, if_neg hc]
    · have hunlisted : Memory.read m a = 0 := Memory.read_below (by omega) m hrest
      rw [if_neg hgt.not_gt, if_neg hgt.ne', if_neg hgt.ne', if_pos hunlisted]

/-- Writing bytes that a canonical memory already reads at their addresses leaves it the same list. -/
theorem Memory.writeBytes_eq_self {m : Memory} (hm : m.wf = true) :
    ∀ (bs : List Byte) (a : Nat), (∀ k b, bs[k]? = some b → m.read (a + k) = b) →
      m.writeBytes a bs = m
  | [], _, _ => rfl
  | b :: bs, a, h => by
    have hhead : m.write a b = m := h 0 b rfl ▸ Memory.write_read_self a m hm
    have htail : ∀ k c, bs[k]? = some c → m.read (a + 1 + k) = c := fun k c hc => by
      rw [Nat.add_right_comm]
      exact h (k + 1) c hc
    rw [Memory.writeBytes, hhead, Memory.writeBytes_eq_self hm bs (a + 1) htail]

/-- Consecutive writes change the bytes of their range only. -/
theorem State.writeBytes_onlyChanges (s : State) (a : Nat) (bs : List Byte) :
    OnlyChanges s { s with mem := s.mem.writeBytes a bs }
      (fun p => ∃ a', a ≤ a' ∧ a' < a + bs.length ∧ p = .mem a') := by
  intro p hp
  cases p
  case mem a' =>
    have houtside : a' < a ∨ a + bs.length ≤ a' := by
      by_contra hin
      exact hp ⟨a', by omega, by omega, rfl⟩
    exact Memory.read_writeBytes_ne bs s.mem a a' houtside
  all_goals rfl

end Sys2Proof.Machine
end

section
/-! The Loader (70_reset_and_hazards.md R301, R302): what `loadFontset` leaves at each address of the table and on a second call, and the two outcomes of `loadProgram`. -/

namespace Sys2Proof.Machine

/-- The 80 bytes of the table end below 4096 (R301). -/
theorem font_fits (c : Config) : fontBase + c.font.toList.length ≤ 4096 := by
  rw [Vector.length_toList]
  decide

/-- Byte `k` of `FONT` is at 0x050 + k (R301). -/
theorem loadFontset_read {s : State} (hm : s.mem.wf = true) (k : Fin 80) :
    (loadFontset s).mem.read (0x050 + k.val) = s.cfg.font[k] :=
  Memory.read_writeBytes_of_getElem? hm (font_fits s.cfg) (by simp)

/-- Writing the font table keeps the canonical form. -/
theorem loadFontset_mem_wf {s : State} (hm : s.mem.wf = true) : (loadFontset s).mem.wf = true :=
  Memory.wf_writeBytes _ _ _ hm (font_fits s.cfg)

/-- A repeated call writes the bytes that are there (R301). -/
theorem loadFontset_loadFontset {s : State} (hm : s.mem.wf = true) :
    loadFontset (loadFontset s) = loadFontset s := by
  have hmem : (loadFontset s).mem.writeBytes fontBase s.cfg.font.toList = (loadFontset s).mem :=
    Memory.writeBytes_eq_self (loadFontset_mem_wf hm) _ _ fun _ _ hb =>
      Memory.read_writeBytes_of_getElem? hm (font_fits s.cfg) hb
  exact congrArg (fun m => { loadFontset s with mem := m }) hmem

/-- `loadFontset` changes the 80 bytes from 0x050 up only (R301). -/
theorem loadFontset_onlyChanges (s : State) :
    OnlyChanges s (loadFontset s) (fun p => ∃ a, 0x050 ≤ a ∧ a < 0x0A0 ∧ p = .mem a) := by
  have h := s.writeBytes_onlyChanges fontBase s.cfg.font.toList
  rwa [Vector.length_toList] at h

/-- A ROM that does not fit is refused and nothing is written (R302). -/
theorem loadProgram_of_gt {bytes : List Byte} (s : State) (h : bytes.length > 3584) :
    loadProgram bytes s = (.romTooLarge, s) := by
  simp [loadProgram, romFits, h]

/-- A ROM that fits is written from 0x200 up (R302). -/
theorem loadProgram_of_le {bytes : List Byte} (s : State) (h : bytes.length ≤ 3584) :
    loadProgram bytes s = (.ok, { s with mem := s.mem.writeBytes programOrigin bytes }) := by
  simp [loadProgram, romFits, h]

/-- Settles O57: a glyph's row is a byte of the table, and the second call finds the table in place. -/
theorem loadFontsetWritesTheTable : Obligations.LoadFontsetWritesTheTable := by
  unfold Obligations.LoadFontsetWritesTheTable
  refine fun s hm => ⟨loadFontset_read hm, fun d row => ?glyph, loadFontset_onlyChanges s,
    loadFontset_loadFontset hm⟩
  case glyph =>
    have hk : 5 * d.val + row.val < 80 := by omega
    exact ⟨⟨_, hk⟩, rfl, Nat.add_assoc 0x050 _ _ ▸ loadFontset_read hm ⟨_, hk⟩⟩

/-- Settles O58: the ROM's length decides between the two outcomes. -/
theorem loadProgramCopiesTheRom : Obligations.LoadProgramCopiesTheRom := by
  unfold Obligations.LoadProgramCopiesTheRom
  refine fun bytes s hm => ⟨loadProgram_of_gt s, fun hfits => ?copied⟩
  case copied =>
    rw [loadProgram_of_le s hfits]
    exact ⟨rfl, fun k b hb => Memory.read_writeBytes_of_getElem? hm (Nat.add_le_add_left hfits 0x200) hb,
      s.writeBytes_onlyChanges programOrigin bytes⟩

end Sys2Proof.Machine
end

section
/-! Construction (70_reset_and_hazards.md R300): every piece of state has its value of 10_state.md R38. -/

namespace Sys2Proof.Machine

/-- Settles O56: the table of R38, field by field. -/
theorem constructionSetsEveryPieceOfState : Obligations.ConstructionSetsEveryPieceOfState := by
  unfold Obligations.ConstructionSetsEveryPieceOfState
  refine ⟨fun c => ⟨State.construct_cfg c, Memory.read_nil, fun x => ?register, State.construct_i c, rfl,
    rfl, fun k => ?entry, State.construct_dt c, State.construct_st c, Display.pixel_blank,
    State.construct_fault c⟩, resetConfig, rfl⟩
  case register => simp
  case entry => simp

end Sys2Proof.Machine
end

section
/-! Encoding and decoding are inverse to each other (30_encoding.md R72, R75, R79): format by format, then every instruction and every legal word. -/

namespace Sys2Proof

/-! ## From the instruction to its word and back -/

/-- Family 0x8 is decoded by its selector nibble. -/
theorem decode_packXYN_alu (x y : Reg) (n : Fin 16) :
    decode (packXYN 0x8 x y n) = decodeAlu (packXYN 0x8 x y n) := by
  simp [decode]

/-- Family 0xF is decoded by its selector byte. -/
theorem decode_packXKK_misc (x : Reg) (kk : Byte) :
    decode (packXKK 0xF x kk) = decodeMisc (packXKK 0xF x kk) := by
  simp [decode]

/-- Settles O2, format by format: the packed fields are read back, and the selector picks the row. -/
theorem decodeOfEncodeIsTheInstruction : Obligations.DecodeOfEncodeIsTheInstruction := by
  unfold Obligations.DecodeOfEncodeIsTheInstruction
  intro i
  cases i
  case cls | ret => decide
  case jp | call | ldI | jpV0 => simp [encode, decode]
  case seImm | sneImm | ldImm | addImm | rnd => simp [encode, decode]
  case seReg | sneReg | drw => simp [encode, decode]
  case skp | sknp => simp [encode, decode, decodeKey]
  case ldReg | orReg | andReg | xorReg | addReg | subReg | shrReg | subnReg | shlReg =>
    rw [encode, decode_packXYN_alu]
    simp [decodeAlu]
  all_goals
    rw [encode, decode_packXKK_misc]
    simp [decodeMisc]

/-- A word that is the encoding of an instruction decodes to it. -/
theorem decode_of_encode_eq {i : Instr} {w : Word} (h : encode i = w) : decode w = .instr i :=
  h ▸ decodeOfEncodeIsTheInstruction i

/-- The word of format `XYS` with its fixed digits added up before x and y (R72). -/
theorem packXYN_eq_fixed_add_xy (t : Nat) (x y : Reg) (n : Fin 16) :
    packXYN t x y n = BitVec.ofNat 16 (t * 4096 + n.val + x.val * 256 + y.val * 16) := by
  rw [packXYN]
  congr 1
  omega

/-! ## From a legal word to its instruction and back -/

/-- A word of family `t` is packed from its address field. -/
theorem packNNN_of_family {w : Word} {t : Nat} (ht : opT w = t) : packNNN t (opNNN w) = w :=
  ht ▸ packNNN_fields w

/-- A word of family `t` is packed from its register and byte fields. -/
theorem packXKK_of_family {w : Word} {t : Nat} (ht : opT w = t) :
    packXKK t (opX w) (opKK w) = w :=
  ht ▸ packXKK_fields w

/-- A word of family `t` is packed from its register fields and its last nibble. -/
theorem packXYN_of_family {w : Word} {t : Nat} (ht : opT w = t) :
    packXYN t (opX w) (opY w) (opN w) = w :=
  ht ▸ packXYN_fields w

/-- A word of family `t` with selector nibble `n`. -/
theorem packXYN_of_selector {w : Word} {t : Nat} {n : Fin 16} (ht : opT w = t)
    (hn : (opN w).val = n.val) : packXYN t (opX w) (opY w) n = w :=
  Fin.ext hn ▸ packXYN_of_family ht

/-- A word of family `t` with selector byte `kk`. -/
theorem packXKK_of_selector {w : Word} {t : Nat} {kk : Byte} (ht : opT w = t)
    (hk : (opKK w).toNat = kk.toNat) : packXKK t (opX w) kk = w :=
  BitVec.eq_of_toNat_eq hk ▸ packXKK_of_family ht

theorem encode_of_decodeFix {w : Word} {i : Instr} (h : decodeFix w = .instr i) : encode i = w := by
  unfold decodeFix at h
  split at h
  case h_1 hw => cases h; exact BitVec.eq_of_toNat_eq hw.symm
  case h_2 hw => cases h; exact BitVec.eq_of_toNat_eq hw.symm
  case h_3 => cases h

theorem encode_of_decodeAlu {w : Word} {i : Instr} (ht : opT w = 0x8)
    (h : decodeAlu w = .instr i) : encode i = w := by
  unfold decodeAlu at h
  split at h
  case h_10 => cases h
  all_goals
    rename_i hn
    cases h
    exact packXYN_of_selector ht hn

theorem encode_of_decodeKey {w : Word} {i : Instr} (ht : opT w = 0xE)
    (h : decodeKey w = .instr i) : encode i = w := by
  unfold decodeKey at h
  split at h
  case h_3 => cases h
  all_goals
    rename_i hk
    cases h
    exact packXKK_of_selector ht hk

theorem encode_of_decodeMisc {w : Word} {i : Instr} (ht : opT w = 0xF)
    (h : decodeMisc w = .instr i) : encode i = w := by
  unfold decodeMisc at h
  split at h
  case h_10 => cases h
  all_goals
    rename_i hk
    cases h
    exact packXKK_of_selector ht hk

/-- Families 0x5 and 0x9: the selector nibble is 0 (R76). -/
theorem packXYN_of_ite {w : Word} {t : Nat} {i j : Instr} (ht : opT w = t)
    (h : (if opN w = 0 then Decoded.instr j else .illegal w) = .instr i) :
    j = i ∧ packXYN t (opX w) (opY w) 0 = w := by
  split at h
  case isTrue hn => exact ⟨Decoded.instr.inj h, hn ▸ packXYN_of_family ht⟩
  case isFalse => cases h

/-- Settles O3, family by family: the instruction holds every field of the word. -/
theorem encodeOfDecodeIsTheWord : Obligations.EncodeOfDecodeIsTheWord := by
  unfold Obligations.EncodeOfDecodeIsTheWord
  intro w i h
  unfold decode at h
  split at h
  case h_1 => exact encode_of_decodeFix h
  case h_9 ht => exact encode_of_decodeAlu ht h
  case h_15 ht => exact encode_of_decodeKey ht h
  case h_16 ht => exact encode_of_decodeMisc ht h
  case h_17 => cases h
  case h_6 ht => obtain ⟨rfl, hw⟩ := packXYN_of_ite ht h; exact hw
  case h_10 ht => obtain ⟨rfl, hw⟩ := packXYN_of_ite ht h; exact hw
  case h_14 ht => cases h; exact packXYN_of_family ht
  case h_2 ht | h_3 ht | h_11 ht | h_12 ht => cases h; exact packNNN_of_family ht
  case h_4 ht | h_5 ht | h_7 ht | h_8 ht | h_13 ht => cases h; exact packXKK_of_family ht

/-- Settles O1: the words are closed, so the decoder runs on each of them. -/
theorem decodesWordsOfTheEncodings : Obligations.DecodesWordsOfTheEncodings := by
  unfold Obligations.DecodesWordsOfTheEncodings
  decide

end Sys2Proof
end

section
/-! What changes: composing frames, and the frame of each operation that writes one piece of state (00_scope.md R11). -/

namespace Sys2Proof.Machine

theorem OnlyChanges.refl (s : State) (P : Part → Prop) : OnlyChanges s s P := by
  intro p _
  cases p <;> rfl

theorem OnlyChanges.mono {s t : State} {P Q : Part → Prop} (h : OnlyChanges s t P)
    (hPQ : ∀ p, P p → Q p) : OnlyChanges s t Q :=
  fun p hp => h p (mt (hPQ p) hp)

/-- What holds the same from `s` to `t` and from `t` to `u` holds the same from `s` to `u`. -/
theorem Part.same_trans {s t u : State} {p : Part} (hst : p.same s t) (htu : p.same t u) :
    p.same s u := by
  cases p
  all_goals exact Eq.trans htu hst

theorem OnlyChanges.trans {s t u : State} {P Q : Part → Prop} (hst : OnlyChanges s t P)
    (htu : OnlyChanges t u Q) : OnlyChanges s u (fun p => P p ∨ Q p) :=
  fun p hp => Part.same_trans (hst p fun h => hp (.inl h)) (htu p fun h => hp (.inr h))

theorem State.retire_onlyChanges (s : State) (w : Word) :
    OnlyChanges s (s.retire w) (· ∈ [.pc, .status]) := by
  intro p hp
  cases p
  case pc | status => exact absurd (by decide) hp
  all_goals rfl

theorem State.setV_onlyChanges (s : State) (x : Reg) (b : Byte) :
    OnlyChanges s (s.setV x b) (· = .v x) := by
  intro p hp
  cases p
  case v r => exact (s.setV_get x r b).trans (if_neg fun h => hp (congrArg Part.v h))
  all_goals rfl

theorem State.with_i_onlyChanges (s : State) (w : Word) :
    OnlyChanges s { s with i := w } (· = .i) := by
  intro p hp
  cases p
  case i => exact absurd rfl hp
  all_goals rfl

theorem State.with_dt_onlyChanges (s : State) (b : Byte) :
    OnlyChanges s { s with dt := b } (· = .dt) := by
  intro p hp
  cases p
  case dt => exact absurd rfl hp
  all_goals rfl

theorem State.with_st_onlyChanges (s : State) (b : Byte) :
    OnlyChanges s { s with st := b } (· = .st) := by
  intro p hp
  cases p
  case st => exact absurd rfl hp
  all_goals rfl

/-- A new display changes the pixels that differ. -/
theorem State.with_disp_onlyChanges (s : State) (d : Display) :
    OnlyChanges s { s with disp := d }
      (fun p => ∃ px py, d.pixel px py ≠ s.disp.pixel px py ∧ p = .pixel px py) := by
  intro p hp
  cases p
  case pixel px py => exact of_not_not fun h => hp ⟨px, py, h, rfl⟩
  all_goals rfl

theorem State.pop_onlyChanges (s : State) : OnlyChanges s s.pop (· = .sp) := by
  intro p hp
  cases p
  case sp => exact absurd rfl hp
  all_goals rfl

/-- A push changes SP and the entry at the old SP (R27). -/
theorem State.push_onlyChanges (s : State) (w : Word) (h : s.sp.val < 16) :
    OnlyChanges s (s.push w h)
      (fun p => p = .sp ∨ ∃ k : Fin 16, k.val = s.sp.val ∧ p = .stack k) := by
  intro p hp
  cases p
  case sp => exact absurd (.inl rfl) hp
  case stack k =>
    exact (s.push_stack_get w h k).trans (if_neg fun hk => hp (.inr ⟨k, hk.symm, rfl⟩))
  all_goals rfl

/-- Fx65's transfer changes V0 to Vx (R175). -/
theorem State.loadRegsFrom_onlyChanges (s : State) (a : Nat) (x : Reg) :
    OnlyChanges s { s with v := s.loadRegsFrom a x } (fun p => ∃ k ≤ x, p = .v k) := by
  intro p hp
  cases p
  case v k => exact (s.loadRegsFrom_get a x k).trans (if_neg fun hk => hp ⟨k, hk, rfl⟩)
  all_goals rfl

/-- The new I of Fx55 and Fx65 differs only under `LDST_INC_I` (R174, R175). -/
theorem State.indexAfter_onlyChanges (s t : State) (x : Reg) (ht : t.i = s.i) :
    OnlyChanges t { t with i := s.indexAfter x } (fun p => s.cfg.ldstIncI = true ∧ p = .i) := by
  intro p hp
  cases p
  case i =>
    have hkept : ¬ s.cfg.ldstIncI = true := fun h => hp ⟨h, rfl⟩
    show s.indexAfter x = t.i
    rw [ht, State.indexAfter, if_neg hkept]
  all_goals rfl

end Sys2Proof.Machine
end

section
/-! The instructions with a check of their own (60_exceptions.md R264): one equation per outcome, in range and out of range. -/

namespace Sys2Proof.Machine

/-- Both halves of an access check: what it guards in range, the fault out of range (R54, R59). -/
theorem State.checked_indexed_of_lt {s : State} {op : Word} {last : Nat} {done : State}
    (h : s.i.toNat + last < 4096) : s.checked op (s.indexedCheck last) done = done := by
  rw [s.indexedCheck_of_lt last h, State.checked_none]

theorem State.checked_indexed_of_ge {s : State} {op : Word} {last : Nat} {done : State}
    (h : 4096 ≤ s.i.toNat + last) :
    s.checked op (s.indexedCheck last) done =
      s.raise .addressOutOfRange (some op) (some (max s.i.toNat 4096)) := by
  rw [s.indexedCheck_of_ge last h, State.checked_some]

theorem exec_ldBcd_of_lt (x : Reg) (s : State) (h : s.i.toNat + 2 < 4096) :
    exec (.ldBcd x) s =
      .next { s with mem := s.mem.writeBytes (s.indexed 0) (decimalDigits (s.reg x)) }.retireNext :=
  congrArg _ (State.checked_indexed_of_lt h)

theorem exec_ldBcd_of_ge (x : Reg) (s : State) (h : 4096 ≤ s.i.toNat + 2) :
    exec (.ldBcd x) s = .next (s.raise .addressOutOfRange (some (encode (.ldBcd x)))
      (some (max s.i.toNat 4096))) :=
  congrArg _ (State.checked_indexed_of_ge h)

theorem exec_storeRegs_of_lt (x : Reg) (s : State) (h : s.i.toNat + x.val < 4096) :
    exec (.storeRegs x) s =
      .next { s with
        mem := s.mem.writeBytes (s.indexed 0) (s.regsThrough x), i := s.indexAfter x }.retireNext :=
  congrArg _ (State.checked_indexed_of_lt h)

theorem exec_storeRegs_of_ge (x : Reg) (s : State) (h : 4096 ≤ s.i.toNat + x.val) :
    exec (.storeRegs x) s = .next (s.raise .addressOutOfRange (some (encode (.storeRegs x)))
      (some (max s.i.toNat 4096))) :=
  congrArg _ (State.checked_indexed_of_ge h)

theorem exec_loadRegs_of_lt (x : Reg) (s : State) (h : s.i.toNat + x.val < 4096) :
    exec (.loadRegs x) s =
      .next { s with v := s.loadRegsFrom (s.indexed 0) x, i := s.indexAfter x }.retireNext :=
  congrArg _ (State.checked_indexed_of_lt h)

theorem exec_loadRegs_of_ge (x : Reg) (s : State) (h : 4096 ≤ s.i.toNat + x.val) :
    exec (.loadRegs x) s = .next (s.raise .addressOutOfRange (some (encode (.loadRegs x)))
      (some (max s.i.toNat 4096))) :=
  congrArg _ (State.checked_indexed_of_ge h)

/-- In range, or with no row to read, the sprite is drawn and VF set (R201). -/
theorem exec_drw_of_fits (x y : Reg) (n : Fin 16) (s : State)
    (h : n.val = 0 ∨ s.i.toNat + n.val ≤ 4096) :
    exec (.drw x y n) s =
      .next ({ s with disp := (s.drawSprite x y n).disp }.setV vf
        (flagByte (s.drawSprite x y n).hit)).retireNext := by
  rw [exec, execDrw, s.spriteCheck_of_lt n h, State.checked_none]

theorem exec_drw_of_gt (x y : Reg) (n : Fin 16) (s : State) (hn : n.val ≠ 0)
    (h : 4096 < s.i.toNat + n.val) :
    exec (.drw x y n) s = .next (s.raise .addressOutOfRange (some (encode (.drw x y n)))
      (some (max s.i.toNat 4096))) := by
  rw [exec, execDrw, s.spriteCheck_of_ge n hn h, State.checked_some]

theorem exec_skp_of_lt (x : Reg) (s : State) (h : s.v[x].toNat < 16) :
    exec (.skp x) s = .next (s.skipIf s.input.keys[s.v[x].toNat]) :=
  dif_pos h

theorem exec_skp_of_ge (x : Reg) (s : State) (h : 16 ≤ s.v[x].toNat) :
    exec (.skp x) s = .next (s.raise .addressOutOfRange (some (encode (.skp x)))
      (some s.v[x].toNat)) :=
  dif_neg h.not_gt

theorem exec_sknp_of_lt (x : Reg) (s : State) (h : s.v[x].toNat < 16) :
    exec (.sknp x) s = .next (s.skipIf (!s.input.keys[s.v[x].toNat])) :=
  dif_pos h

theorem exec_sknp_of_ge (x : Reg) (s : State) (h : 16 ≤ s.v[x].toNat) :
    exec (.sknp x) s = .next (s.raise .addressOutOfRange (some (encode (.sknp x)))
      (some s.v[x].toNat)) :=
  dif_neg h.not_gt

/-- With a key down Fx0A loads the lowest one's index (R222). -/
theorem exec_ldVxKey_of_some (x : Reg) {s : State} {k : Fin 16} (h : s.lowestKey = some k) :
    exec (.ldVxKey x) s = .next (s.setV x (BitVec.ofNat 8 k.val)).retireNext := by
  rw [exec, execLdVxKey, h]

/-- With no key down Fx0A parks (R222). -/
theorem exec_ldVxKey_of_none (x : Reg) {s : State} (h : s.lowestKey = none) :
    exec (.ldVxKey x) s = .next s.park := by
  rw [exec, execLdVxKey, h]

end Sys2Proof.Machine
end


section
/-! The execute phase in general (30_encoding.md R89; 60_exceptions.md R267, R268): the check of an instruction decides whether it only raises the fault of the rules, or completes within its frame. -/

namespace Sys2Proof.Machine

/-! ## The faults of the rules -/

/-- The state that a fault of record `r` leaves (R268). -/
def State.withFault (s : State) (r : FaultRecord) : State :=
  { s with fault := some r, status := .faulted r, sound := false }

theorem State.withFault_onlyChanges (s : State) (r : FaultRecord) :
    OnlyChanges s (s.withFault r) (· ∈ faultParts) := by
  intro p hp
  cases p
  case fault | status | sound => exact absurd (by decide) hp
  all_goals rfl

/-- The data access check of the rules finds a fault exactly when the access ends at 4096 or above. -/
theorem expectedDataFault_eq_some {s : State} {op : Word} {last : Nat} {r : FaultRecord}
    (h : expectedDataFault s op last = some r) :
    4096 ≤ s.i.toNat + last ∧ s.raise .addressOutOfRange (some op) (some (max s.i.toNat 4096)) =
      s.withFault r ∧ r.pc = s.pc := by
  unfold expectedDataFault at h
  split at h
  case isTrue hge => cases h; exact ⟨hge, rfl, rfl⟩
  case isFalse => cases h

theorem expectedDataFault_eq_none {s : State} {op : Word} {last : Nat} :
    expectedDataFault s op last = none ↔ s.i.toNat + last < 4096 := by
  unfold expectedDataFault
  split <;> simp <;> omega

/-- The key index check of the rules finds a fault exactly when the index is 16 or more. -/
theorem expectedKeyFault_eq_some {s : State} {op : Word} {x : Reg} {r : FaultRecord}
    (h : expectedKeyFault s op x = some r) :
    16 ≤ s.v[x].toNat ∧ s.raise .addressOutOfRange (some op) (some s.v[x].toNat) = s.withFault r ∧
      r.pc = s.pc := by
  unfold expectedKeyFault at h
  split at h
  case isTrue hge => cases h; exact ⟨hge, rfl, rfl⟩
  case isFalse => cases h

theorem expectedKeyFault_eq_none {s : State} {op : Word} {x : Reg} :
    expectedKeyFault s op x = none ↔ s.v[x].toNat < 16 := by
  unfold expectedKeyFault
  split
  case isTrue hge => exact iff_of_false (by simp) hge.not_gt
  case isFalse hlt => exact iff_of_true rfl (not_le.mp hlt)

theorem expectedExecFault_drw_eq_none {s : State} {op : Word} {x y : Reg} {n : Fin 16} :
    expectedExecFault s op (.drw x y n) = none ↔ n.val = 0 ∨ s.i.toNat + n.val ≤ 4096 := by
  rw [expectedExecFault]
  split
  case isTrue hn => exact iff_of_true rfl (.inl hn)
  case isFalse hn => rw [expectedDataFault_eq_none]; omega

/-- An instruction whose check fails raises the fault of the rules and does nothing else. -/
theorem exec_of_fault {i : Instr} {s : State} {r : FaultRecord}
    (h : expectedExecFault s (encode i) i = some r) :
    exec i s = .next (s.withFault r) ∧ r.pc = s.pc := by
  cases i
  case ret =>
    simp only [expectedExecFault] at h
    split at h
    case isTrue hempty => cases h; exact ⟨exec_ret_of_empty s hempty, rfl⟩
    case isFalse => cases h
  case call nnn =>
    simp only [expectedExecFault] at h
    split at h
    case isTrue hfull => cases h; exact ⟨exec_call_of_full nnn s hfull, rfl⟩
    case isFalse => cases h
  case drw x y n =>
    simp only [expectedExecFault] at h
    split at h
    case isTrue => cases h
    case isFalse hn =>
      obtain ⟨hge, hr, hpc⟩ := expectedDataFault_eq_some h
      exact ⟨hr ▸ exec_drw_of_gt x y n s hn (by omega), hpc⟩
  case ldBcd x =>
    obtain ⟨hge, hr, hpc⟩ := expectedDataFault_eq_some h
    exact ⟨hr ▸ exec_ldBcd_of_ge x s hge, hpc⟩
  case storeRegs x =>
    obtain ⟨hge, hr, hpc⟩ := expectedDataFault_eq_some h
    exact ⟨hr ▸ exec_storeRegs_of_ge x s hge, hpc⟩
  case loadRegs x =>
    obtain ⟨hge, hr, hpc⟩ := expectedDataFault_eq_some h
    exact ⟨hr ▸ exec_loadRegs_of_ge x s hge, hpc⟩
  case skp x =>
    obtain ⟨hge, hr, hpc⟩ := expectedKeyFault_eq_some h
    exact ⟨hr ▸ exec_skp_of_ge x s hge, hpc⟩
  case sknp x =>
    obtain ⟨hge, hr, hpc⟩ := expectedKeyFault_eq_some h
    exact ⟨hr ▸ exec_sknp_of_ge x s hge, hpc⟩
  all_goals cases h

/-! ## Completing -/

/-- The parts, other than pc and the status, that an instruction run in `s` to its end may write. -/
def MayWrite (i : Instr) (s : State) (p : Part) : Prop :=
  match i with
  | .cls => ∃ px py, p = .pixel px py
  | .ret => p = .sp
  | .call _ => p = .sp ∨ ∃ k : Fin 16, k.val = s.sp.val ∧ p = .stack k
  | .jp _ | .jpV0 _ | .seImm _ _ | .sneImm _ _ | .seReg _ _ | .sneReg _ _ | .skp _ | .sknp _ => False
  | .ldImm x _ | .addImm x _ | .ldReg x _ | .orReg x _ | .andReg x _ | .xorReg x _ | .rnd x _
  | .ldVxDt x | .ldVxKey x => p = .v x
  | .addReg x _ | .subReg x _ | .shrReg x _ | .subnReg x _ | .shlReg x _ => p = .v vf ∨ p = .v x
  | .ldI _ | .addI _ | .ldFont _ => p = .i
  | .drw x y n => (∃ px py, s.SpriteLights x y n px py ∧ p = .pixel px py) ∨ p = .v vf
  | .ldDtVx _ => p = .dt
  | .ldStVx _ => p = .st
  | .ldBcd _ => ∃ a, s.i.toNat ≤ a ∧ a < s.i.toNat + 3 ∧ p = .mem a
  | .storeRegs x =>
    (∃ a, s.i.toNat ≤ a ∧ a < s.i.toNat + (x.val + 1) ∧ p = .mem a) ∨ (s.cfg.ldstIncI = true ∧ p = .i)
  | .loadRegs x => (∃ k ≤ x, p = .v k) ∨ (s.cfg.ldstIncI = true ∧ p = .i)

/-- The instruction parks when run in `s`: it is Fx0A and no key is down (R222). -/
def Parks (i : Instr) (s : State) : Prop :=
  (∃ x, i = .ldVxKey x) ∧ ∀ k : Fin 16, s.input.keys[k] = false

/-- How an instruction that does not fault ends: it parks, or retires from a state in which it has
written what it may and memory is canonical if it was before. -/
def Ends (i : Instr) (s t : State) : Prop :=
  (Parks i s ∧ t = s.park) ∨
  (¬ Parks i s ∧ ∃ u w, t = u.retire w ∧ OnlyChanges s u (MayWrite i s) ∧
    (s.mem.wf = true → u.mem.wf = true))

/-- An instruction other than Fx0A that retires from a state within what it may write ends there: it
cannot park. -/
theorem Ends.of_retire {i : Instr} {s t u : State} {w : Word}
    (he : exec i s = .next t) (hr : exec i s = .next (u.retire w)) (hk : ∀ x, i ≠ .ldVxKey x)
    (hu : OnlyChanges s u (MayWrite i s)) (hm : s.mem.wf = true → u.mem.wf = true := by exact id) :
    Ends i s t := by
  rw [hr] at he
  cases he
  exact .inr ⟨fun ⟨⟨x, hx⟩, _⟩ => hk x hx, u, w, rfl, hu, hm⟩

/-- A store in range keeps the canonical form. -/
theorem State.store_mem_wf {s : State} {last : Nat} {bs : List Byte} (hin : s.i.toNat + last < 4096)
    (hlen : bs.length = last + 1) (hs : s.mem.wf = true) :
    (s.mem.writeBytes (s.indexed 0) bs).wf = true :=
  Memory.wf_writeBytes bs s.mem _ hs (by simp only [State.indexed]; omega)

/-- A flagged result writes VF and Vx (R136 to R140). -/
theorem State.setV_setV_onlyChanges (s : State) (x y : Reg) (a b : Byte) :
    OnlyChanges s ((s.setV x a).setV y b) (fun p => p = .v x ∨ p = .v y) :=
  (s.setV_onlyChanges x a).trans (State.setV_onlyChanges _ y b)

/-- Dxyn writes the pixels its sprite lights, and VF (R201). -/
theorem State.drawn_onlyChanges (s : State) (x y : Reg) (n : Fin 16) (b : Byte) :
    OnlyChanges s ({ s with disp := (s.drawSprite x y n).disp }.setV vf b)
      (MayWrite (.drw x y n) s) := by
  refine ((s.with_disp_onlyChanges _).trans (State.setV_onlyChanges _ vf b)).mono ?_
  rintro p (⟨px, py, hne, hp⟩ | hp)
  · refine .inl ⟨px, py, (s.sprite_iff x y n px py).mp ?_, hp⟩
    rw [s.drawSprite_pixel] at hne
    exact of_not_not fun hunlit => hne (by
      rw [Bool.eq_false_iff.mpr hunlit, Bool.xor_false])
  · exact .inr hp

/-- What an instruction that passes its check can do, said once. -/
theorem exec_ends {i : Instr} {s t : State} (hpass : expectedExecFault s (encode i) i = none)
    (he : exec i s = .next t) : Ends i s t := by
  cases i
  case cls =>
    exact .of_retire he rfl (by simp) ((s.with_disp_onlyChanges _).mono fun p ⟨px, py, _, hp⟩ =>
      ⟨px, py, hp⟩)
  case ret =>
    have hne : s.sp.val ≠ 0 := fun h => by simp [expectedExecFault, h] at hpass
    exact .of_retire he (exec_ret_of_ne_zero s hne) (by simp) s.pop_onlyChanges
  case call nnn =>
    have hroom : s.sp.val < 16 := by
      have hne : s.sp.val ≠ 16 := fun h => by simp [expectedExecFault, h] at hpass
      omega
    exact .of_retire he (exec_call_of_lt nnn s hroom) (by simp) (s.push_onlyChanges _ hroom)
  case skp x =>
    exact .of_retire he (exec_skp_of_lt x s (expectedKeyFault_eq_none.mp hpass)) (by simp) (.refl s _)
  case sknp x =>
    exact .of_retire he (exec_sknp_of_lt x s (expectedKeyFault_eq_none.mp hpass)) (by simp) (.refl s _)
  case jp | jpV0 | seImm | sneImm | seReg | sneReg => exact .of_retire he rfl (by simp) (.refl s _)
  case ldImm | addImm | ldReg | orReg | andReg | xorReg | rnd | ldVxDt =>
    exact .of_retire he rfl (by simp) (s.setV_onlyChanges _ _)
  case addReg | subReg | shrReg | subnReg | shlReg =>
    exact .of_retire he rfl (by simp) (s.setV_setV_onlyChanges _ _ _ _)
  case ldI | addI | ldFont => exact .of_retire he rfl (by simp) (s.with_i_onlyChanges _)
  case ldDtVx => exact .of_retire he rfl (by simp) (s.with_dt_onlyChanges _)
  case ldStVx => exact .of_retire he rfl (by simp) (s.with_st_onlyChanges _)
  case ldVxKey x =>
    cases hk : s.lowestKey with
    | none =>
      rw [exec_ldVxKey_of_none x hk] at he
      cases he
      exact .inl ⟨⟨⟨x, rfl⟩, s.lowestKey_eq_none.mp hk⟩, rfl⟩
    | some k =>
      rw [exec_ldVxKey_of_some x hk] at he
      cases he
      have hdown : s.input.keys[k] = true := ((s.lowestKey_eq_some k).mp hk).1
      exact .inr ⟨fun ⟨_, hup⟩ => by simp [hup k] at hdown, _, _, rfl, s.setV_onlyChanges _ _, id⟩
  case drw x y n =>
    exact .of_retire he (exec_drw_of_fits x y n s (expectedExecFault_drw_eq_none.mp hpass)) (by simp)
      (s.drawn_onlyChanges x y n _)
  case ldBcd x =>
    have hin := expectedDataFault_eq_none.mp hpass
    exact .of_retire he (exec_ldBcd_of_lt x s hin) (by simp) (s.writeBytes_onlyChanges _ _)
      (State.store_mem_wf hin rfl)
  case storeRegs x =>
    have hin := expectedDataFault_eq_none.mp hpass
    have hmem := s.writeBytes_onlyChanges (s.indexed 0) (s.regsThrough x)
    rw [s.regsThrough_length] at hmem
    exact .of_retire he (exec_storeRegs_of_lt x s hin) (by simp)
      (hmem.trans (s.indexAfter_onlyChanges _ x rfl))
      (State.store_mem_wf hin (s.regsThrough_length x))
  case loadRegs x =>
    exact .of_retire he (exec_loadRegs_of_lt x s (expectedDataFault_eq_none.mp hpass)) (by simp)
      ((s.loadRegsFrom_onlyChanges (s.indexed 0) x).trans
        (s.indexAfter_onlyChanges { s with v := s.loadRegsFrom (s.indexed 0) x } x rfl))

/-- The frame of an instruction that passes its check (R11). -/
theorem exec_onlyChanges {i : Instr} {s t : State}
    (hpass : expectedExecFault s (encode i) i = none) (he : exec i s = .next t) :
    OnlyChanges s t (fun p => MayWrite i s p ∨ p ∈ [.pc, .status]) := by
  obtain ⟨-, rfl⟩ | ⟨-, u, w, rfl, hu, -⟩ := exec_ends hpass he
  · intro p hp
    cases p
    case status => exact absurd (.inr (by decide)) hp
    all_goals rfl
  · exact hu.trans (u.retire_onlyChanges w)

/-- No instruction that passes its check writes the fault register. -/
theorem exec_keeps_fault {i : Instr} {s t : State}
    (hpass : expectedExecFault s (encode i) i = none) (he : exec i s = .next t) :
    t.fault = s.fault := by
  refine exec_onlyChanges hpass he .fault ?_
  cases i <;> simp [MayWrite]

/-- An instruction that passes its check keeps memory canonical. -/
theorem exec_keeps_mem_wf {i : Instr} {s t : State}
    (hpass : expectedExecFault s (encode i) i = none) (he : exec i s = .next t)
    (hs : s.mem.wf = true) : t.mem.wf = true := by
  obtain ⟨-, rfl⟩ | ⟨-, u, w, rfl, -, hm⟩ := exec_ends hpass he
  · exact hs
  · exact hm hs

/-- The frame of an instruction whose check fails (R268). -/
theorem exec_onlyChanges_of_fault {i : Instr} {s t : State} {r : FaultRecord}
    (hfault : expectedExecFault s (encode i) i = some r) (he : exec i s = .next t) :
    OnlyChanges s t (· ∈ faultParts) := by
  rw [(exec_of_fault hfault).1] at he
  cases he
  exact s.withFault_onlyChanges r

end Sys2Proof.Machine
end

section
/-! The step in general (30_encoding.md R85 to R91): it raises the fault of the rules, or runs an instruction that passes its check and ticks. -/

namespace Sys2Proof.Machine

/-- The word at pc decodes to at most one instruction. -/
theorem State.Runs.unique {s : State} {i j : Instr} (hi : s.Runs i) (hj : s.Runs j) : i = j := by
  obtain ⟨-, -, hi⟩ := hi
  obtain ⟨-, -, hj⟩ := hj
  exact Decoded.instr.inj (hi.symm.trans hj)

/-- The fault of the rules for a step that runs `i` is that of its execute phase. -/
theorem State.Runs.expectedFault_eq {s : State} {i : Instr} (hr : s.Runs i) :
    expectedFault s = expectedExecFault s (encode i) i := by
  obtain ⟨-, hpc, hdecode⟩ := hr
  rw [expectedFault, if_neg (by omega), hdecode, encodeOfDecodeIsTheWord _ _ hdecode]

/-- With a fault by the rules a step of a core that is not halted records it and does nothing else
(R267, R268). -/
theorem step_of_expectedFault {s : State} {r : FaultRecord} (hs : s.fault = none)
    (h : expectedFault s = some r) : step s = .next (s.withFault r) ∧ r.pc = s.pc := by
  obtain ⟨r', hr', -⟩ | ⟨-, hpc, hstep⟩ | ⟨-, hpc, op, hdecode, hstep⟩ | ⟨i, t, hruns, ht, hstep⟩ :=
    step_cases s
  · rw [hs] at hr'
    cases hr'
  · rw [expectedFault, if_pos hpc] at h
    cases h
    exact ⟨hstep, rfl⟩
  · rw [expectedFault, if_neg (by omega), hdecode] at h
    cases h
    exact ⟨hstep, rfl⟩
  · obtain ⟨he, hrpc⟩ := exec_of_fault (hruns.expectedFault_eq ▸ h)
    exact ⟨step_of_runs s _ i hruns he, hrpc⟩

/-- Without one it runs an instruction that passes its check, then ticks and uses up its inputs. -/
theorem step_of_no_expectedFault {s : State} (hs : s.fault = none) (h : expectedFault s = none) :
    ∃ i e, s.Runs i ∧ expectedExecFault s (encode i) i = none ∧ exec i s = .next e ∧
      e.fault = none ∧ step s = .next e.tick.nextInput := by
  obtain ⟨r, hr, -⟩ | ⟨-, hpc, -⟩ | ⟨-, hpc, op, hdecode, -⟩ | ⟨i, e, hruns, he, -⟩ := step_cases s
  · rw [hs] at hr
    cases hr
  · rw [expectedFault, if_pos hpc] at h
    cases h
  · rw [expectedFault, if_neg (by omega), hdecode] at h
    cases h
  · have hpass : expectedExecFault s (encode i) i = none := hruns.expectedFault_eq ▸ h
    have hfault : e.fault = none := (exec_keeps_fault hpass he).trans hs
    exact ⟨i, e, hruns, hpass, he, hfault, step_of_runs_no_fault hruns he hfault⟩

/-- Everything a step can answer: a halted core its fault again, any other the fault of the rules, or
the end of an instruction's run. -/
theorem step_answers {s t : State} (h : step s = .next t) :
    (∃ r, s.fault = some r ∧ t = s.reportFault r) ∨
    (∃ r, s.fault = none ∧ expectedFault s = some r ∧ r.pc = s.pc ∧ t = s.withFault r) ∨
    (∃ i e, s.Runs i ∧ expectedExecFault s (encode i) i = none ∧ exec i s = .next e ∧
      e.fault = none ∧ t = e.tick.nextInput) := by
  cases hs : s.fault with
  | some r =>
    rw [step_of_halted s r hs] at h
    cases h
    exact .inl ⟨r, rfl, rfl⟩
  | none =>
    cases hrules : expectedFault s with
    | some r =>
      obtain ⟨hstep, hpc⟩ := step_of_expectedFault hs hrules
      rw [hstep] at h
      cases h
      exact .inr (.inl ⟨r, rfl, rfl, hpc, rfl⟩)
    | none =>
      obtain ⟨i, e, hruns, hpass, he, hfault, hstep⟩ := step_of_no_expectedFault hs hrules
      rw [hstep] at h
      cases h
      exact .inr (.inr ⟨i, e, hruns, hpass, he, hfault, rfl⟩)

/-- A step that leaves no fault ran an instruction to its end. -/
theorem step_completes {s t : State} (h : step s = .next t) (hf : t.fault = none) :
    ∃ i e, s.Runs i ∧ expectedExecFault s (encode i) i = none ∧ exec i s = .next e ∧
      e.fault = none ∧ t = e.tick.nextInput := by
  obtain ⟨r, hr, rfl⟩ | ⟨r, -, -, -, rfl⟩ | hrun := step_answers h
  · cases hr.symm.trans hf
  · cases hf
  · exact hrun

/-- A step that runs `i` and leaves no fault is the execute phase of `i`, then the tick. -/
theorem State.Runs.step_completes {s t : State} {i : Instr} (hr : s.Runs i)
    (h : step s = .next t) (hf : t.fault = none) :
    ∃ e, expectedExecFault s (encode i) i = none ∧ exec i s = .next e ∧ t = e.tick.nextInput := by
  obtain ⟨j, e, hj, hpass, he, -, rfl⟩ := Machine.step_completes h hf
  obtain rfl := hr.unique hj
  exact ⟨e, hpass, he, rfl⟩

/-- The tick and the use of the inputs change the timers, the sound output and the inputs (R90). -/
theorem State.tick_nextInput_onlyChanges (t : State) :
    OnlyChanges t t.tick.nextInput (· ∈ [.dt, .st, .sound, .inputs, .draws]) := by
  intro p hp
  cases p
  case dt | st | sound | inputs | draws => exact absurd (by decide) hp
  all_goals simp [Part.same]

/-- The sound output of a tick is whether ST was nonzero (R90, R277). -/
theorem State.tick_nextInput_sound (t : State) : t.tick.nextInput.sound = true ↔ t.st.toNat > 0 := by
  simp

/-- The tick counts ST down exactly when it is nonzero (R90). -/
theorem countDown_ne_iff (b : Byte) : countDown b ≠ b ↔ b.toNat > 0 := by
  rw [Ne, ← BitVec.toNat_inj, countDown_toNat]
  omega

/-! ## The step's obligations -/

/-- Settles O5: the two ends of an execute phase, and the two forms of a step's inputs. -/
theorem stepRunsTheDecodedInstruction : Obligations.StepRunsTheDecodedInstruction := by
  unfold Obligations.StepRunsTheDecodedInstruction
  refine fun s t i hr ht => ⟨_, step_of_runs s t i hr ht, fun hfault => ?faulted, fun hnone => ?ticked⟩
  case faulted =>
    obtain ⟨r, -, hafter⟩ | ⟨hnone, -⟩ := t.afterExecute_cases
    · exact hafter
    · exact absurd hnone hfault
  case ticked =>
    have hafter : t.afterExecute = t.tick.nextInput := by rw [State.afterExecute, hnone]
    rw [hafter]
    refine ⟨by simp, by simp, t.tick_nextInput_sound.trans Nat.pos_iff_ne_zero,
      t.tick_nextInput_onlyChanges, fun inp rest hin => ?scheduled, fun hin => ?free⟩
    case scheduled => rw [State.nextInput_of_scheduled t.tick inp rest hin]; exact ⟨rfl, rfl⟩
    case free => rw [State.nextInput_of_none t.tick hin]; exact ⟨hin, rfl⟩

/-- A halted core answers its fault again on each of any number of steps (R86, R269). -/
theorem run_of_halted (n : Nat) {s : State} {r : FaultRecord} (h : s.fault = some r) :
    Sys2Proof.core.run (n + 1) s = .next (s.reportFault r) := by
  induction n generalizing s with
  | zero => exact run_succ_of_next 0 s _ (step_of_halted s r h)
  | succ n ih => rw [run_succ_of_next _ s _ (step_of_halted s r h), ih (s := s.reportFault r) h]; rfl

/-- Settles O7: every step of a halted core leaves the same state. -/
theorem haltedCoreRepeatsItsFault : Obligations.HaltedCoreRepeatsItsFault := by
  unfold Obligations.HaltedCoreRepeatsItsFault
  intro n s r h
  cases n with
  | zero => exact ⟨s, rfl, .refl s _, fun h0 => absurd rfl h0⟩
  | succ n =>
    refine ⟨s.reportFault r, run_of_halted n h, ?frame, fun _ => ⟨rfl, rfl⟩⟩
    intro p hp
    cases p
    case status | sound => exact absurd (by decide) hp
    all_goals rfl

/-- Settles O8: a step that leaves a fault is the one that records the fault of the rules. -/
theorem faultingStepChangesOnlyTheFault : Obligations.FaultingStepChangesOnlyTheFault := by
  unfold Obligations.FaultingStepChangesOnlyTheFault
  intro s t r hs h hr
  obtain ⟨r', hr', -⟩ | ⟨r', -, -, hpc, rfl⟩ | ⟨i, e, -, -, -, hnone, rfl⟩ := step_answers h
  · cases hs.symm.trans hr'
  · cases hr
    exact ⟨rfl, hpc⟩
  · rw [State.nextInput_fault, State.tick_fault, hnone] at hr
    cases hr

/-- Settles O9: the rules give a fault, and the step records it, or none, and the instruction ends. -/
theorem stepFaultsExactlyAsTheRulesSay : Obligations.StepFaultsExactlyAsTheRulesSay := by
  unfold Obligations.StepFaultsExactlyAsTheRulesSay
  intro s hs
  cases hrules : expectedFault s with
  | some r => exact ⟨_, (step_of_expectedFault hs hrules).1, rfl⟩
  | none =>
    obtain ⟨i, e, -, -, -, hfault, hstep⟩ := step_of_no_expectedFault hs hrules
    exact ⟨_, hstep, by rw [State.nextInput_fault, State.tick_fault, hfault]⟩

/-- Settles O10: the tick follows the execute phase, which writes DT for Fx15 only. -/
theorem delayTimerCountsSteps : Obligations.DelayTimerCountsSteps := by
  unfold Obligations.DelayTimerCountsSteps
  refine ⟨rfl, fun s t i hr h hf => ?_⟩
  obtain ⟨e, hpass, he, rfl⟩ := hr.step_completes h hf
  refine ⟨?written, ?read, ?kept⟩
  case written =>
    rintro x rfl
    cases he
    simp
  case read =>
    rintro x rfl
    cases he
    simp
  case kept =>
    intro hi
    have hdt : e.dt = s.dt := exec_onlyChanges hpass he .dt (by
      cases i
      case ldDtVx x => exact absurd rfl (hi x)
      all_goals simp [MayWrite])
    simp [hdt]

/-- Settles O12: no fault leaves the sound output set, and the tick sets it by the ST it finds. -/
theorem soundOutputIsStNonzeroAtTheTick : Obligations.SoundOutputIsStNonzeroAtTheTick := by
  unfold Obligations.SoundOutputIsStNonzeroAtTheTick
  intro s t h
  refine ⟨fun hfault => ?silent, fun i e hr he hnone => ?ticked⟩
  case silent =>
    obtain ⟨r, -, rfl⟩ | ⟨r, -, -, -, rfl⟩ | ⟨i, e, -, -, -, hnone, rfl⟩ := step_answers h
    · rfl
    · rfl
    · exact absurd (by simpa using hnone) hfault
  case ticked =>
    rw [step_of_runs_no_fault hr he hnone] at h
    cases h
    have hst : e.tick.nextInput.st = countDown e.st := by simp
    refine ⟨e.tick_nextInput_sound, e.tick_nextInput_sound.trans ?_⟩
    rw [hst, countDown_ne_iff]

/-- The status an instruction that passes its check leaves (R89). -/
theorem exec_status {i : Instr} {s e : State} (hpass : expectedExecFault s (encode i) i = none)
    (he : exec i s = .next e) :
    (Parks i s → e.status = .parked) ∧ (¬ Parks i s → e.status = .retired) := by
  obtain ⟨hp, rfl⟩ | ⟨hp, u, w, rfl, -, -⟩ := exec_ends hpass he
  · exact ⟨fun _ => rfl, fun h => absurd hp h⟩
  · exact ⟨fun h => absurd h hp, fun _ => rfl⟩

/-- Settles O13: a fault is the status, and an instruction that ends leaves parked or retired. -/
theorem stepStatusIsRetiredParkedOrFaulted : Obligations.StepStatusIsRetiredParkedOrFaulted := by
  unfold Obligations.StepStatusIsRetiredParkedOrFaulted
  intro s t h
  refine ⟨fun r hr => ?faulted, fun hf => ?ended⟩
  case faulted =>
    obtain ⟨r', hr', rfl⟩ | ⟨r', -, -, -, rfl⟩ | ⟨i, e, -, -, -, hnone, rfl⟩ := step_answers h
    · cases hr'.symm.trans hr
      rfl
    · cases hr
      rfl
    · simp [hnone] at hr
  case ended =>
    obtain ⟨i, e, hr, hpass, he, -, rfl⟩ := step_completes h hf
    obtain ⟨hparked, hretired⟩ := exec_status hpass he
    have hparks : ((∃ x, s.Runs (.ldVxKey x)) ∧ ∀ k : Fin 16, s.input.keys[k] = false) ↔ Parks i s :=
      and_congr_left fun _ => exists_congr fun x =>
        ⟨fun hx => hr.unique hx, fun hx => hx ▸ hr⟩
    rw [hparks, State.nextInput_status, State.tick_status]
    exact ⟨hparked, hretired⟩

end Sys2Proof.Machine
end

section
/-! The invariant (10_state.md R25; 60_exceptions.md R268): it holds after construction, and the Loader, a fault and an instruction's run keep each of its clauses. -/

namespace Sys2Proof.Machine

/-! ## Construction and the Loader -/

theorem State.construct_inv (c : Config) : (State.construct c).Inv where
  mem_wf := rfl
  pc_le := by simp
  stack_le k := by simp
  faulted r hr := by cases hr
  not_faulted _ r hr := by cases hr

/-- Settles O14: the reset state is a construction. -/
theorem invariantHoldsAfterConstruction : Obligations.InvariantHoldsAfterConstruction := by
  unfold Obligations.InvariantHoldsAfterConstruction
  exact ⟨State.construct_inv, State.construct_inv resetConfig⟩

theorem State.Inv.loadFontset {s : State} (h : s.Inv) : (loadFontset s).Inv :=
  h.with_mem (loadFontset_mem_wf h.mem_wf)

theorem State.Inv.loadProgram {s : State} (h : s.Inv) (rom : List Byte) :
    (loadProgram rom s).2.Inv := by
  by_cases hfits : rom.length ≤ 3584
  · rw [loadProgram_of_le s hfits]
    exact h.with_mem (Memory.wf_writeBytes rom s.mem _ h.mem_wf (Nat.add_le_add_left hfits 0x200))
  · rw [loadProgram_of_gt s (not_le.mp hfits)]
    exact h

/-- Settles O15: booting is a construction and the two Loader calls. -/
theorem invariantHoldsAfterBoot : Obligations.InvariantHoldsAfterBoot := by
  unfold Obligations.InvariantHoldsAfterBoot
  exact ⟨fun s h => ⟨h.loadFontset, h.loadProgram⟩,
    fun c rom => (State.construct_inv c).loadFontset.loadProgram rom⟩

/-! ## The clauses of the invariant after an instruction's run -/

/-- The table's next pc is at most 0x10FE, the greatest target of Bnnn, from a pc that can be fetched
and with the invariant's return addresses (R25, R107). -/
theorem tablePc_le {s : State} {p : Nat} (i : Instr) (hp : p + 1 < 4096)
    (hstack : ∀ k : Fin 16, s.stack[k].toNat ≤ 0x1000) : tablePc s p i ≤ 0x10FE := by
  cases i <;> simp only [tablePc]
  case seImm | sneImm | seReg | sneReg | skp | sknp | ldVxKey => split <;> omega
  case jp nnn | call nnn =>
    have := nnn.isLt
    omega
  case jpV0 nnn =>
    have := nnn.isLt
    have := s.v[0].isLt
    omega
  case ret =>
    by_cases hk : s.sp.val - 1 < 16
    · have htop : s.stack[s.sp.val - 1].toNat ≤ 0x1000 := hstack ⟨_, hk⟩
      simpa [hk] using htop.trans (by decide : 0x1000 ≤ 0x10FE)
    · have hkept : p ≤ 0x10FE := by omega
      simpa [hk] using hkept
  all_goals omega

/-- After an instruction's run the pc is at most 0x10FE (R25). -/
theorem exec_pc_le {i : Instr} {s e : State} (he : exec i s = .next e) (hf : e.fault = none)
    (hp : s.pc.toNat + 1 < 4096) (hstack : ∀ k : Fin 16, s.stack[k].toNat ≤ 0x1000) :
    e.pc.toNat ≤ 0x10FE := by
  have hle := tablePc_le i hp hstack
  rw [exec_pc_eq_table he hf, BitVec.toNat_ofNat]
  omega

/-- Every return address stays at most 0x1000: the one CALL pushes is the pc of a fetched word plus 2
(R25, R102). -/
theorem exec_stack_le {i : Instr} {s e : State} (hpass : expectedExecFault s (encode i) i = none)
    (he : exec i s = .next e) (hp : s.pc.toNat + 1 < 4096)
    (hstack : ∀ k : Fin 16, s.stack[k].toNat ≤ 0x1000) (k : Fin 16) :
    e.stack[k].toNat ≤ 0x1000 := by
  by_cases hcall : ∃ nnn, i = .call nnn
  · obtain ⟨nnn, rfl⟩ := hcall
    by_cases hroom : s.sp.val < 16
    · rw [exec_call_of_lt nnn s hroom] at he
      cases he
      rw [State.retire_stack, State.push_stack_get]
      split
      · rw [State.pc_add_two_toNat]
        omega
      · exact hstack k
    · rw [exec_call_of_full nnn s (by omega)] at he
      cases he
      exact hstack k
  · have hkept : e.stack[k] = s.stack[k] := exec_onlyChanges hpass he (.stack k) (by
      cases i
      case call nnn => exact absurd ⟨nnn, rfl⟩ hcall
      all_goals simp [MayWrite])
    exact hkept ▸ hstack k

/-- The status after an instruction's run is no fault. -/
theorem exec_status_ne_faulted {i : Instr} {s e : State}
    (hpass : expectedExecFault s (encode i) i = none) (he : exec i s = .next e) (r : FaultRecord) :
    e.status ≠ .faulted r := by
  obtain ⟨-, rfl⟩ | ⟨-, u, w, rfl, -, -⟩ := exec_ends hpass he
  · simp
  · simp

/-! ## What keeps the invariant -/

theorem State.Inv.reportFault {s : State} {r : FaultRecord} (h : s.Inv) (hr : s.fault = some r) :
    (s.reportFault r).Inv where
  mem_wf := h.mem_wf
  pc_le := h.pc_le
  stack_le := h.stack_le
  faulted r' hr' := by
    obtain rfl : r = r' := Option.some.inj (hr.symm.trans hr')
    exact ⟨rfl, rfl, (h.faulted r hr).2.2⟩
  not_faulted hnone := absurd (hr.symm.trans hnone) (by simp)

theorem State.Inv.withFault {s : State} {r : FaultRecord} (h : s.Inv) (hr : r.pc = s.pc) :
    (s.withFault r).Inv where
  mem_wf := h.mem_wf
  pc_le := h.pc_le
  stack_le := h.stack_le
  faulted r' hr' := by cases hr'; exact ⟨rfl, rfl, hr⟩
  not_faulted hnone := by cases hnone

/-- The tick writes no part of a state without a fault that the invariant speaks of. -/
theorem State.inv_tick_nextInput {e : State} (hf : e.fault = none) (hmem : e.mem.wf = true)
    (hpc : e.pc.toNat ≤ 0x10FE) (hstack : ∀ k : Fin 16, e.stack[k].toNat ≤ 0x1000)
    (hstatus : ∀ r, e.status ≠ .faulted r) : e.tick.nextInput.Inv where
  mem_wf := by simpa using hmem
  pc_le := by simpa using hpc
  stack_le k := by simpa using hstack k
  faulted r hr := by simp [hf] at hr
  not_faulted _ := by simpa using hstatus

/-- Settles O16: each of the three answers of a step keeps the invariant. -/
theorem stepKeepsTheInvariant : Obligations.StepKeepsTheInvariant := by
  unfold Obligations.StepKeepsTheInvariant
  intro s t h hstep
  obtain ⟨r, hr, rfl⟩ | ⟨r, -, -, hpc, rfl⟩ | ⟨i, e, hruns, hpass, he, hf, rfl⟩ := step_answers hstep
  · exact h.reportFault hr
  · exact h.withFault hpc
  · obtain ⟨-, hp, -⟩ := hruns
    exact State.inv_tick_nextInput hf (exec_keeps_mem_wf hpass he h.mem_wf)
      (exec_pc_le he hf hp h.stack_le) (exec_stack_le hpass he hp h.stack_le)
      (exec_status_ne_faulted hpass he)

end Sys2Proof.Machine
end

section
/-! The frames of the instructions, group by group (00_scope.md R11, D26): each is the general frame with the group's parts written out. -/

namespace Sys2Proof.Machine

/-- The frame of an instruction that passes its check, with what it may write given as `Q`. -/
theorem exec_onlyChanges_of {i : Instr} {s t : State} {Q : Part → Prop} (he : exec i s = .next t)
    (hpass : expectedExecFault s (encode i) i = none)
    (hQ : ∀ p, MayWrite i s p ∨ p ∈ [.pc, .status] → Q p) : OnlyChanges s t Q :=
  (exec_onlyChanges hpass he).mono hQ

/-- The frame of SKP and SKNP, whose check is on the key index (R220, R221). -/
theorem exec_keySkip_onlyChanges {i : Instr} {s t : State} {x : Reg} (he : exec i s = .next t)
    (hcheck : expectedExecFault s (encode i) i = expectedKeyFault s (encode i) x)
    (hwrites : ∀ p, ¬ MayWrite i s p) :
    OnlyChanges s t (· ∈ if s.v[x].toNat < 16 then [.pc, .status] else faultParts) := by
  split
  case isTrue hlt =>
    exact exec_onlyChanges_of he (hcheck.trans (expectedKeyFault_eq_none.mpr hlt))
      fun p hp => hp.resolve_left (hwrites p)
  case isFalse hge =>
    exact exec_onlyChanges_of_fault (hcheck.trans (if_pos (not_lt.mp hge))) he

/-- The frame of an instruction whose check is on the bytes I to I + last (R264). -/
theorem exec_access_onlyChanges {i : Instr} {s t : State} {last : Nat} {Q : Part → Prop}
    (he : exec i s = .next t)
    (hcheck : expectedExecFault s (encode i) i = expectedDataFault s (encode i) last)
    (hQ : ∀ p, MayWrite i s p ∨ p ∈ [.pc, .status] → Q p) :
    (s.i.toNat + last < 4096 → OnlyChanges s t Q) ∧
    (s.i.toNat + last ≥ 4096 → OnlyChanges s t (· ∈ faultParts)) :=
  ⟨fun hin => exec_onlyChanges_of he (hcheck.trans (expectedDataFault_eq_none.mpr hin)) hQ,
    fun hout => exec_onlyChanges_of_fault (hcheck.trans (if_pos hout)) he⟩

/-- Settles O17: jumps and skips write nothing more than pc and the status, RET and CALL their stack
state. -/
theorem controlFlowInstructionsWriteOnlyTheirState :
    Obligations.ControlFlowInstructionsWriteOnlyTheirState := by
  unfold Obligations.ControlFlowInstructionsWriteOnlyTheirState
  intro s t nnn x y kk
  have jumps : ∀ {i}, expectedExecFault s (encode i) i = none → (∀ p, ¬ MayWrite i s p) →
      exec i s = .next t → OnlyChanges s t (· ∈ [.pc, .status]) := fun hpass hw he =>
    exec_onlyChanges_of he hpass fun p hp => hp.resolve_left (hw p)
  refine ⟨jumps rfl fun _ => id, jumps rfl fun _ => id, jumps rfl fun _ => id, jumps rfl fun _ => id,
    jumps rfl fun _ => id, jumps rfl fun _ => id,
    fun he => exec_keySkip_onlyChanges he rfl fun _ => id,
    fun he => exec_keySkip_onlyChanges he rfl fun _ => id,
    fun he => ?ret, fun he hroom => ?call, fun he hfull => ?full⟩
  case ret =>
    split
    case isTrue hheld =>
      refine exec_onlyChanges_of he (if_neg hheld) ?_
      rintro p (hp | hp)
      · exact hp ▸ List.mem_cons_self
      · exact List.mem_cons_of_mem _ hp
    case isFalse hempty => exact exec_onlyChanges_of_fault (i := .ret) (if_pos (not_not.mp hempty)) he
  case call =>
    refine exec_onlyChanges_of he (if_neg hroom.ne) ?_
    rintro p ((hp | hp) | hp)
    · exact .inl (hp ▸ List.mem_cons_self)
    · exact .inr hp
    · exact .inl (List.mem_cons_of_mem _ hp)
  case full => exact exec_onlyChanges_of_fault (i := .call nnn) (if_pos hfull) he

/-- Settles O18: in each group the parts written are those the group names. -/
theorem registerInstructionsWriteOnlyTheirState :
    Obligations.RegisterInstructionsWriteOnlyTheirState := by
  unfold Obligations.RegisterInstructionsWriteOnlyTheirState
  intro s t nnn x y kk
  have writes : ∀ {i q}, expectedExecFault s (encode i) i = none → (∀ p, MayWrite i s p → p = q) →
      exec i s = .next t → OnlyChanges s t (· ∈ [q, .pc, .status]) := fun hpass hw he =>
    exec_onlyChanges_of he hpass fun p hp => List.mem_cons.mpr (hp.imp_left (hw p))
  refine ⟨fun i hi => ?registers, fun i hi => ?flagged, fun i hi => ?index,
    writes rfl fun _ => id, writes rfl fun _ => id⟩
  case registers =>
    simp only [List.mem_cons, List.not_mem_nil, or_false] at hi
    obtain rfl | rfl | rfl | rfl | rfl | rfl | rfl | rfl | rfl := hi
    all_goals exact writes rfl fun _ => id
  case flagged =>
    have hflag : expectedExecFault s (encode i) i = none ∧
        ∀ p, MayWrite i s p → p = .v vf ∨ p = .v x := by
      simp only [List.mem_cons, List.not_mem_nil, or_false] at hi
      obtain rfl | rfl | rfl | rfl | rfl := hi
      all_goals exact ⟨rfl, fun _ => id⟩
    refine fun he => exec_onlyChanges_of he hflag.1 ?_
    rintro p (hp | hp)
    · obtain rfl | rfl := hflag.2 p hp
      · exact List.mem_cons_of_mem _ List.mem_cons_self
      · exact List.mem_cons_self
    · exact List.mem_cons_of_mem _ (List.mem_cons_of_mem _ hp)
  case index =>
    simp only [List.mem_cons, List.not_mem_nil, or_false] at hi
    obtain rfl | rfl | rfl := hi
    all_goals exact writes rfl fun _ => id

/-- An address of the range of `n` bytes from I is that of byte `k` for some `k` below `n` (R58). -/
theorem State.exists_indexed_of_range {s : State} {n : Nat} {p : Part}
    (h : ∃ a, s.i.toNat ≤ a ∧ a < s.i.toNat + n ∧ p = .mem a) :
    ∃ k, k < n ∧ p = .mem (s.indexed k) := by
  obtain ⟨a, hlo, hhi, rfl⟩ := h
  refine ⟨a - s.i.toNat, by omega, congrArg Part.mem ?_⟩
  rw [State.indexed]
  omega

/-- Settles O19: in range each of the three writes its own bytes, registers and I. -/
theorem memoryInstructionsWriteOnlyTheirState :
    Obligations.MemoryInstructionsWriteOnlyTheirState := by
  unfold Obligations.MemoryInstructionsWriteOnlyTheirState
  intro s t x
  refine ⟨fun he => exec_access_onlyChanges he rfl ?digits, fun he => exec_access_onlyChanges he rfl ?store,
    fun he => exec_access_onlyChanges he rfl ?load⟩
  case digits =>
    rintro p (hp | hp)
    · exact .inr (State.exists_indexed_of_range hp)
    · exact .inl hp
  case store =>
    rintro p ((hp | hp) | hp)
    · obtain ⟨k, hk, rfl⟩ := State.exists_indexed_of_range hp
      exact .inr (.inl ⟨k, Nat.le_of_lt_succ hk, rfl⟩)
    · exact .inr (.inr hp)
    · exact .inl hp
  case load =>
    rintro p ((hp | hp) | hp)
    · exact .inr (.inl hp)
    · exact .inr (.inr hp)
    · exact .inl hp

/-- Settles O20: 00E0 may write every pixel, Dxyn those its sprite lights and VF. -/
theorem displayInstructionsWriteOnlyTheirState :
    Obligations.DisplayInstructionsWriteOnlyTheirState := by
  unfold Obligations.DisplayInstructionsWriteOnlyTheirState
  intro s t x y n
  refine ⟨fun he => exec_onlyChanges_of he rfl fun p => Or.symm,
    fun he => ⟨fun hfits => ?drawn, fun hn hout => ?faulted⟩⟩
  case drawn =>
    refine exec_onlyChanges_of he (expectedExecFault_drw_eq_none.mpr hfits) ?_
    rintro p ((hp | hp) | hp)
    · exact .inr hp
    · exact .inl (hp ▸ List.mem_cons_self)
    · exact .inl (List.mem_cons_of_mem _ hp)
  case faulted =>
    exact exec_onlyChanges_of_fault (i := .drw x y n) ((if_neg hn).trans (if_pos (by omega))) he

end Sys2Proof.Machine
end


section
/-! What the execute phase does not read (10_state.md R30, R33; 60_exceptions.md R276, R287): with another ST, display or inputs an instruction does the same and carries them along. -/

namespace Sys2Proof.Machine

/-- `s` with another ST, another display and other scheduled inputs, each where one is given. -/
def State.overlay (s : State) (st : Option Byte) (disp : Option Display)
    (inputs : Option (List StepInput)) : State :=
  { s with st := st.getD s.st, disp := disp.getD s.disp, inputs := inputs.getD s.inputs }

/-- An access check does the same with another ST, display or inputs. -/
theorem State.checked_overlay {s s' done done' : State} {op : Word} {bad : Option Nat}
    {st : Option Byte} {disp : Option Display} {inputs : Option (List StepInput)}
    (hs : s' = s.overlay st disp inputs) (hd : done' = done.overlay st disp inputs) :
    s'.checked op bad done' = (s.checked op bad done).overlay st disp inputs := by
  subst hs hd
  cases bad with
  | none => rfl
  | some a => rfl

/-- Laying another ST, display or inputs over the state does not change what an instruction does, and
it carries them along, if it does not write or draw on what is replaced, and reads no key and no random
byte that is. -/
theorem exec_overlay {i : Instr} {s t : State} (st : Option Byte) (disp : Option Display)
    (inputs : Option (List StepInput)) (he : exec i s = .next t) (hcls : i = .cls → disp = none)
    (hdrw : ∀ x y n, i = .drw x y n → disp = none) (hst : ∀ x, i = .ldStVx x → st = none)
    (hkeys : ∀ x, i = .skp x ∨ i = .sknp x ∨ i = .ldVxKey x →
      (s.overlay st disp inputs).input.keys = s.input.keys)
    (hrnd : ∀ x kk, i = .rnd x kk → (s.overlay st disp inputs).input.rnd = s.input.rnd) :
    exec i (s.overlay st disp inputs) = .next (t.overlay st disp inputs) := by
  cases i
  case cls => cases he; obtain rfl := hcls rfl; rfl
  case ldStVx x => cases he; obtain rfl := hst x rfl; rfl
  case drw x y n =>
    cases he
    obtain rfl := hdrw x y n rfl
    exact congrArg Host.Outcome.next (State.checked_overlay rfl rfl)
  case ldBcd | storeRegs =>
    cases he
    exact congrArg Host.Outcome.next (State.checked_overlay rfl rfl)
  case loadRegs x =>
    have hload : (s.overlay st disp inputs).loadRegsFrom ((s.overlay st disp inputs).indexed 0) x =
        s.loadRegsFrom (s.indexed 0) x := rfl
    rw [exec, execLoadRegs] at he ⊢
    rw [hload]
    generalize s.loadRegsFrom (s.indexed 0) x = loaded at he ⊢
    cases he
    exact congrArg Host.Outcome.next (State.checked_overlay rfl rfl)
  case ret =>
    by_cases hempty : s.sp.val = 0
    · rw [exec_ret_of_empty s hempty] at he
      cases he
      exact exec_ret_of_empty (s.overlay st disp inputs) hempty
    · rw [exec_ret_of_ne_zero s hempty] at he
      cases he
      exact exec_ret_of_ne_zero (s.overlay st disp inputs) hempty
  case call nnn =>
    by_cases hroom : s.sp.val < 16
    · rw [exec_call_of_lt nnn s hroom] at he
      cases he
      exact exec_call_of_lt nnn (s.overlay st disp inputs) hroom
    · have hfull : s.sp.val = 16 := by omega
      rw [exec_call_of_full nnn s hfull] at he
      cases he
      exact exec_call_of_full nnn (s.overlay st disp inputs) hfull
  case skp x =>
    by_cases hlt : s.v[x].toNat < 16
    · rw [exec_skp_of_lt x s hlt, ← hkeys x (.inl rfl)] at he
      cases he
      exact exec_skp_of_lt x (s.overlay st disp inputs) hlt
    · rw [exec_skp_of_ge x s (not_lt.mp hlt)] at he
      cases he
      exact exec_skp_of_ge x (s.overlay st disp inputs) (not_lt.mp hlt)
  case sknp x =>
    by_cases hlt : s.v[x].toNat < 16
    · rw [exec_sknp_of_lt x s hlt, ← hkeys x (.inr (.inl rfl))] at he
      cases he
      exact exec_sknp_of_lt x (s.overlay st disp inputs) hlt
    · rw [exec_sknp_of_ge x s (not_lt.mp hlt)] at he
      cases he
      exact exec_sknp_of_ge x (s.overlay st disp inputs) (not_lt.mp hlt)
  case ldVxKey x =>
    have hlowest : (s.overlay st disp inputs).lowestKey = s.lowestKey := by
      rw [State.lowestKey, hkeys x (.inr (.inr rfl)), State.lowestKey]
    cases hk : s.lowestKey with
    | none =>
      rw [exec_ldVxKey_of_none x hk] at he
      cases he
      exact exec_ldVxKey_of_none x (hlowest.trans hk)
    | some k =>
      rw [exec_ldVxKey_of_some x hk] at he
      cases he
      exact exec_ldVxKey_of_some x (hlowest.trans hk)
  case rnd x kk =>
    rw [exec, execRnd, ← hrnd x kk rfl] at he
    cases he
    rfl
  all_goals
    cases he
    rfl

/-- No instruction writes the inputs (R33). -/
theorem exec_keeps_inputs {i : Instr} {s t : State} (he : exec i s = .next t) :
    t.inputs = s.inputs := by
  cases hcheck : expectedExecFault s (encode i) i with
  | none => exact exec_onlyChanges hcheck he .inputs (by cases i <;> simp [MayWrite])
  | some r => exact exec_onlyChanges_of_fault hcheck he .inputs (by decide)

/-- Settles O11: the tick counts ST down, Fx18 forgets the old ST, and every other instruction carries
it along. -/
theorem soundTimerIsReadByNoInstruction : Obligations.SoundTimerIsReadByNoInstruction := by
  unfold Obligations.SoundTimerIsReadByNoInstruction
  refine ⟨rfl, fun s t i hr h hf => ?counts, fun s t i b he => ⟨fun hi => ?carried, ?forgotten⟩⟩
  case counts =>
    obtain ⟨e, hpass, he, rfl⟩ := hr.step_completes h hf
    refine ⟨?written, fun hi => ?kept⟩
    case written =>
      rintro x rfl
      cases he
      simp
    case kept =>
      have hst : e.st = s.st := exec_onlyChanges hpass he .st (by
        cases i
        case ldStVx x => exact absurd rfl (hi x)
        all_goals simp [MayWrite])
      simp [hst]
  case carried =>
    exact exec_overlay (some b) none none he (fun _ => rfl) (fun _ _ _ _ => rfl)
      (fun x hx => absurd hx (hi x)) (fun _ _ => rfl) (fun _ _ _ => rfl)
  case forgotten =>
    rintro x rfl
    cases he
    rfl

/-- Settles O22: 00E0 clears any display, and every other instruction but Dxyn carries it along. -/
theorem onlyDrawReadsTheDisplay : Obligations.OnlyDrawReadsTheDisplay := by
  unfold Obligations.OnlyDrawReadsTheDisplay
  intro s t i d he hi
  by_cases hcls : i = .cls
  · subst hcls
    cases he
    rfl
  · rw [if_neg hcls]
    exact exec_overlay none (some d) none he (fun h => absurd h hcls)
      (fun x y n h => absurd h (hi x y n)) (fun _ _ => rfl) (fun _ _ => rfl) (fun _ _ _ => rfl)

/-- Settles O23: another key sample leaves the random byte, so only the instructions that read keys can
tell. -/
theorem onlyKeyInstructionsReadTheKeys : Obligations.OnlyKeyInstructionsReadTheKeys := by
  unfold Obligations.OnlyKeyInstructionsReadTheKeys
  refine ⟨fun s t i keys keys' r rest hin he => ⟨exec_keeps_inputs he, fun hskp hsknp hkey => ?same⟩,
    fun c inp => State.input_of_scheduled _ inp [] rfl⟩
  case same =>
    have hnokeys : ∀ x, ¬ (i = .skp x ∨ i = .sknp x ∨ i = .ldVxKey x) := fun x =>
      not_or.mpr ⟨hskp x, not_or.mpr ⟨hsknp x, hkey x⟩⟩
    exact exec_overlay none none (some (⟨keys', r⟩ :: rest)) he (fun _ => rfl) (fun _ _ _ _ => rfl)
      (fun _ _ => rfl) (fun x h => absurd h (hnokeys x))
      (fun _ _ _ => by rw [s.input_of_scheduled _ rest hin]; rfl)

/-- Settles O38: the mask is bitwise, and another random byte leaves the keys, so only RND can tell. -/
theorem randomByteIsMaskedAndUsedByRndOnly : Obligations.RandomByteIsMaskedAndUsedByRndOnly := by
  unfold Obligations.RandomByteIsMaskedAndUsedByRndOnly
  refine ⟨fun x kk s => ⟨decode_of_encode_eq rfl, ?masked⟩, State.input_of_scheduled,
    fun s t i keys r r' rest hin he hi => ?same⟩
  case masked =>
    obtain ⟨t, he, hx, hkept, hpc, hstatus, -⟩ :=
      exec_setV_outcome (i := .rnd x kk) (s := s) (x := x) (b := s.input.rnd &&& kk) rfl
    refine ⟨t, he, fun b => ?_, hkept, hpc, hstatus⟩
    rw [hx, BitVec.getLsbD_and]
  case same =>
    exact exec_overlay none none (some (⟨keys, r'⟩ :: rest)) he (fun _ => rfl) (fun _ _ _ _ => rfl)
      (fun _ _ => rfl) (fun _ _ => by rw [s.input_of_scheduled _ rest hin]; rfl)
      (fun x kk h => absurd h (hi x kk))

end Sys2Proof.Machine
end

section
/-! Arithmetic, logic and shifts (41_alu.md), and the sums on I and pc: what a flagged result leaves, then each instruction. -/

namespace Sys2Proof.Machine

/-- What an instruction with a flagged result answers: the result in Vx, the flag in VF unless x = 0xF
(R10, R22, R92). -/
theorem exec_flagged_outcome {i : Instr} {s : State} {x : Reg} {c : Bool} {b : Byte}
    (he : exec i s = .next (s.retireFlagged x c b)) :
    ∃ t, exec i s = .next t ∧ t.v[x] = b ∧ (x ≠ vf → t.v[vf].toNat = if c = true then 1 else 0) ∧
      t.pc = s.pc + 2 ∧ t.status = .retired := by
  refine ⟨_, he, ?_, fun hx => ?_, rfl, rfl⟩
  · rw [s.retireFlagged_get, if_pos rfl]
  · rw [s.retireFlagged_get, if_neg (Ne.symm hx), if_pos rfl, flagByte_toNat]

/-- Settles O34: each of the three writes the bitwise result to Vx and nothing to VF. -/
theorem logicWorksBitByBitAndSetsNoFlag : Obligations.LogicWorksBitByBitAndSetsNoFlag := by
  unfold Obligations.LogicWorksBitByBitAndSetsNoFlag
  intro x y s
  have bitwise : ∀ {i b} {f : Nat → Bool}, exec i s = .next (s.setV x b).retireNext →
      (∀ n, b.getLsbD n = f n) → ∃ t, exec i s = .next t ∧ (∀ n, t.v[x].getLsbD n = f n) ∧
        (∀ r, r ≠ x → t.v[r] = s.v[r]) ∧ t.pc = s.pc + 2 ∧ t.status = .retired := by
    intro i b f he hf
    obtain ⟨t, ht, hx, hkept, hpc, hstatus, -⟩ := exec_setV_outcome he
    exact ⟨t, ht, fun n => by rw [hx, hf n], hkept, hpc, hstatus⟩
  exact ⟨decode_of_encode_eq (packXYN_eq_fixed_add_xy 8 x y 1),
    decode_of_encode_eq (packXYN_eq_fixed_add_xy 8 x y 2),
    decode_of_encode_eq (packXYN_eq_fixed_add_xy 8 x y 3),
    bitwise rfl fun _ => BitVec.getLsbD_or, bitwise rfl fun _ => BitVec.getLsbD_and,
    bitwise rfl fun _ => BitVec.getLsbD_xor⟩

/-- Settles O35: the sum wraps at 256, and the carry is the flag. -/
theorem addSetsTheCarry : Obligations.AddSetsTheCarry := by
  unfold Obligations.AddSetsTheCarry
  intro x y s
  obtain ⟨t, he, hx, hvf, hend⟩ := exec_flagged_outcome (i := .addReg x y) (s := s) rfl
  refine ⟨decode_of_encode_eq (packXYN_eq_fixed_add_xy 8 x y 4), t, he, ?sum, fun h => ?carry, hend⟩
  case sum => rw [hx, BitVec.toNat_add]
  case carry => simpa [carryOut] using hvf h

/-- The difference of two bytes, as an integer modulo 256 (R8). -/
theorem byte_sub_toNat_cast (a b : Byte) : ((a - b).toNat : Int) = ((a.toNat : Int) - b.toNat) % 256 := by
  rw [BitVec.toNat_sub]
  omega

/-- Settles O36: both differences wrap at 256, and the flag compares the minuend with the subtrahend. -/
theorem subtractSetsTheNoBorrowFlag : Obligations.SubtractSetsTheNoBorrowFlag := by
  unfold Obligations.SubtractSetsTheNoBorrowFlag
  intro x y s
  have difference : ∀ {i} {a b : Byte},
      exec i s = .next (s.retireFlagged x (noBorrow a b) (a - b)) →
      ∃ t, exec i s = .next t ∧ (t.v[x].toNat : Int) = ((a.toNat : Int) - b.toNat) % 256 ∧
        (x ≠ vf → t.v[vf].toNat = if a.toNat > b.toNat then 1 else 0) ∧ t.pc = s.pc + 2 ∧
        t.status = .retired := by
    intro i a b he
    obtain ⟨t, ht, hx, hvf, hend⟩ := exec_flagged_outcome he
    exact ⟨t, ht, by rw [hx, byte_sub_toNat_cast], fun h => by simpa [noBorrow] using hvf h, hend⟩
  exact ⟨decode_of_encode_eq (packXYN_eq_fixed_add_xy 8 x y 5),
    decode_of_encode_eq (packXYN_eq_fixed_add_xy 8 x y 7), difference rfl, difference rfl⟩

/-- The bit SHR moves out, as the flag holds it (R138). -/
theorem ite_lowBit (c : Byte) : (if lowBit c = true then 1 else 0) = c.toNat % 2 := by
  rw [lowBit_eq]
  obtain h | h := Nat.mod_two_eq_zero_or_one c.toNat
  · simp [h]
  · simp [h]

/-- The bit SHL moves out, as the flag holds it (R140). -/
theorem ite_highBit (c : Byte) : (if highBit c = true then 1 else 0) = c.toNat / 128 := by
  have hlt := c.isLt
  rw [highBit_eq]
  obtain h | h : c.toNat / 128 = 0 ∨ c.toNat / 128 = 1 := by omega
  · simp [h]
  · simp [h]

/-- Settles O37: `SHIFT_SRC` names the source, and the bit it loses is the flag. -/
theorem shiftsMoveOneBitIntoVf : Obligations.ShiftsMoveOneBitIntoVf := by
  unfold Obligations.ShiftsMoveOneBitIntoVf
  intro x y s c hvx hvy
  have hc : s.shiftSource x y = c := by
    rw [s.shiftSource_eq]
    cases hsrc : s.cfg.shiftSrc with
    | vx => exact (hvx hsrc).symm
    | vy => exact (hvy hsrc).symm
  refine ⟨decode_of_encode_eq (packXYN_eq_fixed_add_xy 8 x y 6),
    decode_of_encode_eq (packXYN_eq_fixed_add_xy 8 x y 0xE), ?right, ?left⟩
  case right =>
    obtain ⟨t, he, hx, hvf, hend⟩ := exec_flagged_outcome (i := .shrReg x y) (s := s) rfl
    rw [hc] at hx hvf
    refine ⟨t, he, ?_, fun h => ?_, hend⟩
    · rw [hx, BitVec.toNat_ushiftRight, Nat.shiftRight_eq_div_pow, pow_one]
    · rw [hvf h, ite_lowBit]
  case left =>
    obtain ⟨t, he, hx, hvf, hend⟩ := exec_flagged_outcome (i := .shlReg x y) (s := s) rfl
    rw [hc] at hx hvf
    refine ⟨t, he, ?_, fun h => ?_, hend⟩
    · rw [hx, BitVec.toNat_shiftLeft, Nat.shiftLeft_eq, pow_one]
    · rw [hvf h, ite_highBit]

/-- A byte keeps its value in 16 bits (R8). -/
theorem zext16Byte_toNat (b : Byte) : (zext16Byte b).toNat = b.toNat :=
  BitVec.toNat_setWidth_of_le (by decide)

/-- Settles O31: the greatest sum, 0xFFF + 0xFF, is far below 65536. -/
theorem jumpAddsV0WithoutWrapping : Obligations.JumpAddsV0WithoutWrapping := by
  unfold Obligations.JumpAddsV0WithoutWrapping
  intro nnn s
  have hnnn := nnn.isLt
  have hv0 := s.v[0].isLt
  refine ⟨decode_of_encode_eq rfl, _, rfl, ?sum, rfl, rfl⟩
  case sum =>
    rw [State.retire_pc, BitVec.toNat_add, zext16Addr_toNat, zext16Byte_toNat]
    exact Nat.mod_eq_of_lt (by omega)

/-- Settles O40: the sum on I wraps at 16 bits. -/
theorem addIndexWrapsAt16Bits : Obligations.AddIndexWrapsAt16Bits := by
  unfold Obligations.AddIndexWrapsAt16Bits
  intro x s
  refine ⟨decode_of_encode_eq (packXKK_eq_fixed_add_x 15 x 0x1E), _, rfl, ?sum, rfl, rfl, rfl⟩
  case sum => rw [State.retireNext_i, BitVec.toNat_add, zext16Byte_toNat]

/-- Settles O41: the glyph's address, at most 0x050 + 5 * 255, does not wrap. -/
theorem loadFontPointsAtTheGlyph : Obligations.LoadFontPointsAtTheGlyph := by
  unfold Obligations.LoadFontPointsAtTheGlyph
  intro x s
  have hvx : (s.reg x).toNat < 256 := (s.reg x).isLt
  refine ⟨decode_of_encode_eq (packXKK_eq_fixed_add_x 15 x 0x29), _, rfl, ?address, rfl, rfl, rfl⟩
  case address =>
    rw [State.retireNext_i, glyphAddress, BitVec.toNat_ofNat]
    exact Nat.mod_eq_of_lt (by unfold fontBase; omega)

/-- Settles O28: the entry at the old SP is the one CALL pushed, and RET pops it. -/
theorem returnGoesToTheInstructionAfterTheCall :
    Obligations.ReturnGoesToTheInstructionAfterTheCall := by
  unfold Obligations.ReturnGoesToTheInstructionAfterTheCall
  intro nnn s t t' hroom hcall hsp hstack
  rw [exec_call_of_lt nnn s hroom] at hcall
  cases hcall
  have hsp' : t'.sp.val = s.sp.val + 1 := congrArg Fin.val hsp
  have hheld : t'.sp.val ≠ 0 := by omega
  refine ⟨_, exec_ret_of_ne_zero t' hheld, ?pc, ?sp⟩
  case pc =>
    have htop := t'.top_eq_stack hheld (k := ⟨s.sp.val, hroom⟩) hsp'
    rw [State.retire_pc, htop, hstack ⟨s.sp.val, hroom⟩ (Nat.lt_succ_self _), State.retire_stack,
      State.push_stack_get, if_pos rfl]
  case sp =>
    apply Fin.ext
    rw [State.retire_sp, State.pop_sp]
    exact congrArg (· - 1) hsp'

end Sys2Proof.Machine
end

section
/-! The canonical form of memory (10_state.md; 20_memory.md R55): canonical memories are determined by their bytes, so writes of disjoint ranges commute, and so do the two Loader calls. -/

namespace Sys2Proof.Machine

/-- Canonical memories that read alike everywhere are the same list: the heads must agree, since below
and between its addresses a canonical memory reads 0 and at its addresses it does not. -/
theorem Memory.eq_of_read {lo lo' : Nat} : ∀ m m' : Memory, m.wfFrom lo = true →
    m'.wfFrom lo' = true → (∀ a, m.read a = m'.read a) → m = m'
  | [], [], _, _, _ => rfl
  | [], (k, c) :: m', _, hm', h => by
    obtain ⟨-, -, hc, -⟩ := (Memory.wfFrom_cons lo' k c m').mp hm'
    exact absurd (by simpa using (h k).symm) hc
  | (k, c) :: m, [], hm, _, h => by
    obtain ⟨-, -, hc, -⟩ := (Memory.wfFrom_cons lo k c m).mp hm
    exact absurd (by simpa using h k) hc
  | (k, c) :: m, (k', c') :: m', hm, hm', h => by
    obtain ⟨-, -, hc, hrest⟩ := (Memory.wfFrom_cons lo k c m).mp hm
    obtain ⟨-, -, hc', hrest'⟩ := (Memory.wfFrom_cons lo' k' c' m').mp hm'
    obtain hlt | rfl | hgt := lt_trichotomy k k'
    · have hread := h k
      rw [Memory.read_cons, if_pos rfl, Memory.read_cons, if_neg hlt.ne',
        Memory.read_below (by omega) m' hrest'] at hread
      exact absurd hread hc
    · have hhead : c = c' := by simpa using h k
      have htail : m = m' := Memory.eq_of_read m m' hrest hrest' fun a => by
        by_cases ha : k = a
        · subst ha
          rw [Memory.read_below (Nat.lt_succ_self k) m hrest,
            Memory.read_below (Nat.lt_succ_self k) m' hrest']
        · simpa [ha] using h a
      rw [hhead, htail]
    · have hread := h k'
      rw [Memory.read_cons, if_neg hgt.ne', Memory.read_below (by omega) m hrest,
        Memory.read_cons, if_pos rfl] at hread
      exact absurd hread.symm hc'

/-- Settles O45: above the 4096 addresses canonical memories read alike anyway. -/
theorem canonicalMemoriesThatReadAlikeAreEqual :
    Obligations.CanonicalMemoriesThatReadAlikeAreEqual := by
  unfold Obligations.CanonicalMemoriesThatReadAlikeAreEqual
  intro m m' hm hm' h
  refine Memory.eq_of_read m m' hm hm' fun a => ?_
  by_cases ha : a < 4096
  · exact h a ha
  · rw [Memory.read_outside (not_lt.mp ha) m hm, Memory.read_outside (not_lt.mp ha) m' hm']

/-- Writes of two ranges, the first below the second, commute on a canonical memory. -/
theorem Memory.writeBytes_comm {m : Memory} {a b : Nat} {bs cs : List Byte} (hm : m.wf = true)
    (hab : a + bs.length ≤ b) (hb : b + cs.length ≤ 4096) :
    (m.writeBytes a bs).writeBytes b cs = (m.writeBytes b cs).writeBytes a bs := by
  have hbs : (m.writeBytes a bs).wf = true := Memory.wf_writeBytes bs m a hm (by omega)
  have hcs : (m.writeBytes b cs).wf = true := Memory.wf_writeBytes cs m b hm hb
  refine Memory.eq_of_read _ _ (Memory.wf_writeBytes cs _ b hbs hb)
    (Memory.wf_writeBytes bs _ a hcs (by omega)) fun a' => ?_
  obtain hlow | hhigh := lt_or_ge a' b
  · rw [Memory.read_writeBytes_ne cs _ b a' (.inl hlow), Memory.read_writeBytes bs _ a a' hm (by omega),
      Memory.read_writeBytes bs _ a a' hcs (by omega), Memory.read_writeBytes_ne cs m b a' (.inl hlow)]
  · rw [Memory.read_writeBytes cs _ b a' hbs hb, Memory.read_writeBytes_ne bs m a a' (.inr (by omega)),
      Memory.read_writeBytes_ne bs _ a a' (.inr (by omega)), Memory.read_writeBytes cs m b a' hm hb]

/-- Settles O59: the font table ends at 0x0A0, below the program's origin. -/
theorem loaderCallsCommute : Obligations.LoaderCallsCommute := by
  unfold Obligations.LoaderCallsCommute
  intro rom s hm
  by_cases hfits : rom.length ≤ 3584
  · have hbelow : fontBase + s.cfg.font.toList.length ≤ programOrigin := by
      rw [Vector.length_toList]
      decide
    have hmem := Memory.writeBytes_comm (cs := rom) hm hbelow (Nat.add_le_add_left hfits 0x200)
    rw [loadProgram_of_le _ hfits, loadProgram_of_le _ hfits]
    exact ⟨rfl, congrArg (fun m => { s with mem := m }) hmem⟩
  · rw [loadProgram_of_gt _ (not_le.mp hfits), loadProgram_of_gt _ (not_le.mp hfits)]
    exact ⟨rfl, rfl⟩

end Sys2Proof.Machine
end

section
/-! The memory instructions (42_memory_index.md R173 to R175; 20_memory.md R64): what Fx33 and Fx55 store and a later fetch reads, what Fx65 loads, and the fault out of range. -/

namespace Sys2Proof.Machine

/-- What a failed access check answers: the fault of the lowest bad address, and nothing else
(R264, R266, R268). -/
theorem exec_addressFault_outcome {i : Instr} {s : State} {op : Word} {a : Nat}
    (he : exec i s = .next (s.raise .addressOutOfRange (some op) (some a))) :
    ∃ t r, exec i s = .next t ∧ t.fault = some r ∧ r.kind = .addressOutOfRange ∧
      r.addr = some a ∧ OnlyChanges s t (· ∈ faultParts) :=
  ⟨_, _, he, rfl, rfl, rfl, s.raise_onlyChanges _ _ _⟩

/-- The digits of a byte, hundreds first, as powers of ten (R173). -/
theorem decimalDigits_getElem? (b : Byte) {k : Nat} (hk : k < 3) :
    (decimalDigits b)[k]? = some (BitVec.ofNat 8 (b.toNat / 10 ^ (2 - k) % 10)) := by
  have hlt := b.isLt
  interval_cases k
  · have hhundreds : b.toNat / 100 % 10 = b.toNat / 100 := Nat.mod_eq_of_lt (by omega)
    simp [decimalDigits, hhundreds]
  · simp [decimalDigits]
  · simp [decimalDigits]

/-- Fx33 stores digit `k` at I + k (R173). -/
theorem exec_ldBcd_read {x : Reg} {s t : State} (hm : s.mem.wf = true)
    (he : exec (.ldBcd x) s = .next t) (hin : s.i.toNat + 2 < 4096) {k : Nat} (hk : k < 3) :
    (t.mem.read (s.i.toNat + k)).toNat = s.v[x].toNat / 10 ^ (2 - k) % 10 := by
  rw [exec_ldBcd_of_lt x s hin] at he
  cases he
  have hfit : s.indexed 0 + (decimalDigits (s.reg x)).length ≤ 4096 := by
    simp only [State.indexed, decimalDigits, List.length_cons, List.length_nil]
    omega
  have hread := Memory.read_writeBytes_of_getElem? hm hfit (decimalDigits_getElem? (s.reg x) hk)
  rw [State.retireNext_mem]
  refine (congrArg BitVec.toNat hread).trans ?_
  rw [BitVec.toNat_ofNat]
  exact Nat.mod_eq_of_lt (by omega)

/-- Fx55 stores Vk at I + k (R174). -/
theorem exec_storeRegs_read {x : Reg} {s t : State} (hm : s.mem.wf = true)
    (he : exec (.storeRegs x) s = .next t) (hin : s.i.toNat + x.val < 4096) {k : Reg} (hk : k ≤ x) :
    t.mem.read (s.i.toNat + k.val) = s.v[k] := by
  rw [exec_storeRegs_of_lt x s hin] at he
  cases he
  have hfit : s.indexed 0 + (s.regsThrough x).length ≤ 4096 := by
    rw [s.regsThrough_length, State.indexed]
    omega
  have hlen : k.val < (s.regsThrough x).length := by
    rw [s.regsThrough_length]
    exact Nat.lt_succ_of_le hk
  exact Memory.read_writeBytes_of_getElem? hm hfit
    (List.getElem?_eq_some_iff.mpr ⟨hlen, s.regsThrough_get x k hlen⟩)

/-- Settles O42: in range the three digits are stored, out of range only the fault is taken. -/
theorem decimalDigitsAreStored : Obligations.DecimalDigitsAreStored := by
  unfold Obligations.DecimalDigitsAreStored
  refine fun x s hm => ⟨decode_of_encode_eq (packXKK_eq_fixed_add_x 15 x 0x33), fun hin => ?stored,
    fun hout => exec_addressFault_outcome (exec_ldBcd_of_ge x s hout)⟩
  case stored =>
    have he := exec_ldBcd_of_lt x s hin
    have hvx := s.v[x].isLt
    have hhundreds := exec_ldBcd_read hm he hin (k := 0) (by decide)
    rw [Nat.mod_eq_of_lt (by omega)] at hhundreds
    refine ⟨_, he, hhundreds, exec_ldBcd_read hm he hin (k := 1) (by decide), ?ones, fun a ha => ?kept,
      rfl, rfl, rfl, rfl⟩
    case ones => simpa using exec_ldBcd_read hm he hin (k := 2) (by decide)
    case kept =>
      refine Memory.read_writeBytes_ne _ s.mem _ a ?_
      simp only [State.indexed, decimalDigits, List.length_cons, List.length_nil]
      omega

/-- Settles O43: in range V0 to Vx are stored, out of range only the fault is taken. -/
theorem storeRegistersFromV0ToVx : Obligations.StoreRegistersFromV0ToVx := by
  unfold Obligations.StoreRegistersFromV0ToVx
  refine fun x s hm => ⟨decode_of_encode_eq (packXKK_eq_fixed_add_x 15 x 0x55), fun hin => ?stored,
    fun hout => exec_addressFault_outcome (exec_storeRegs_of_ge x s hout)⟩
  case stored =>
    have he := exec_storeRegs_of_lt x s hin
    refine ⟨_, he, fun k hk => exec_storeRegs_read hm he hin hk, fun a ha => ?kept,
      s.indexAfter_toNat x, rfl, rfl, rfl⟩
    case kept =>
      refine Memory.read_writeBytes_ne _ s.mem _ a ?_
      rw [s.regsThrough_length, State.indexed]
      omega

/-- Settles O44: in range V0 to Vx are loaded, out of range only the fault is taken. -/
theorem loadRegistersFromV0ToVx : Obligations.LoadRegistersFromV0ToVx := by
  unfold Obligations.LoadRegistersFromV0ToVx
  refine fun x s => ⟨decode_of_encode_eq (packXKK_eq_fixed_add_x 15 x 0x65), fun hin => ?loaded,
    fun hout => exec_addressFault_outcome (exec_loadRegs_of_ge x s hout)⟩
  case loaded =>
    refine ⟨_, exec_loadRegs_of_lt x s hin,
      fun k hk => (s.loadRegsFrom_get _ x k).trans (if_pos hk),
      fun k hk => (s.loadRegsFrom_get _ x k).trans (if_neg (not_le.mpr hk)),
      s.indexAfter_toNat x, ?_, ?_, rfl⟩
    · rw [State.retireNext_mem]
    · rw [State.retireNext_pc]

/-- The word at pc holds the byte at `a` in bits 15:8 or 7:0, as `a` is its first or second address
(R56, R87). -/
theorem State.wordAtPc_byte (u : State) (a : Nat) :
    (u.pc.toNat = a → u.wordAtPc.toNat / 256 = (u.mem.read a).toNat) ∧
    (u.pc.toNat + 1 = a → u.wordAtPc.toNat % 256 = (u.mem.read a).toNat) := by
  have hlow := (u.mem.read (u.pc.toNat + 1)).isLt
  constructor
  · rintro rfl
    rw [u.wordAtPc_toNat]
    omega
  · rintro rfl
    rw [u.wordAtPc_toNat]
    omega

/-- Settles O46: the stored byte is the byte the fetched word holds. -/
theorem storedBytesAreFetched : Obligations.StoredBytesAreFetched := by
  unfold Obligations.StoredBytesAreFetched
  refine fun s t u x a hm hu => ⟨fun he hin k hk ha => ?registers, fun he hin k hk ha => ?digits⟩
  case registers =>
    have hbyte : (u.mem.read a).toNat = s.v[k].toNat := by
      rw [hu, ha, exec_storeRegs_read hm he hin hk]
    exact hbyte ▸ u.wordAtPc_byte a
  case digits =>
    have hbyte : (u.mem.read a).toNat = s.v[x].toNat / 10 ^ (2 - k) % 10 := by
      rw [hu, ha, exec_ldBcd_read hm he hin hk]
    exact hbyte ▸ u.wordAtPc_byte a

end Sys2Proof.Machine
end

section
/-! Dxyn (43_display.md R201 to R203): what a draw in range does to each pixel and to VF, and what a second one restores. -/

namespace Sys2Proof.Machine

/-! ## One draw -/

/-- A draw in range flips a lit pixel (R201). -/
theorem exec_drw_pixel_of_lit {x y : Reg} {n : Fin 16} {s t : State}
    (hfits : n.val = 0 ∨ s.i.toNat + n.val ≤ 4096) (he : exec (.drw x y n) s = .next t)
    {px : Fin 64} {py : Fin 32} (hlit : s.SpriteLights x y n px py) :
    t.disp.pixel px py = !s.disp.pixel px py := by
  rw [exec_drw_of_fits x y n s hfits] at he
  cases he
  rw [State.retireNext_disp, State.setV_disp, s.drawSprite_pixel,
    (s.sprite_iff x y n px py).mpr hlit, Bool.xor_true]

/-- A draw in range keeps a pixel that is not lit (R201). -/
theorem exec_drw_pixel_of_unlit {x y : Reg} {n : Fin 16} {s t : State}
    (hfits : n.val = 0 ∨ s.i.toNat + n.val ≤ 4096) (he : exec (.drw x y n) s = .next t)
    {px : Fin 64} {py : Fin 32} (hunlit : ¬ s.SpriteLights x y n px py) :
    t.disp.pixel px py = s.disp.pixel px py := by
  rw [exec_drw_of_fits x y n s hfits] at he
  cases he
  rw [State.retireNext_disp, State.setV_disp, s.drawSprite_pixel,
    Bool.eq_false_iff.mpr (mt (s.sprite_iff x y n px py).mp hunlit), Bool.xor_false]

/-- VF after a draw in range, by whether a lit pixel was set (R201). -/
theorem exec_drw_vf {x y : Reg} {n : Fin 16} {s t : State}
    (hfits : n.val = 0 ∨ s.i.toNat + n.val ≤ 4096) (he : exec (.drw x y n) s = .next t) :
    ((∃ px py, s.SpriteLights x y n px py ∧ s.disp.pixel px py = true) → t.v[vf].toNat = 1) ∧
    ((∀ px py, s.SpriteLights x y n px py → s.disp.pixel px py = false) → t.v[vf].toNat = 0) := by
  rw [exec_drw_of_fits x y n s hfits] at he
  cases he
  have hvf := State.setV_get { s with disp := (s.drawSprite x y n).disp } vf vf
    (flagByte (s.drawSprite x y n).hit)
  rw [if_pos rfl] at hvf
  rw [State.retireNext_v, hvf, flagByte_toNat]
  refine ⟨fun hset => if_pos ((s.drawSprite_hit x y n).mpr hset), fun hclear => if_neg fun hhit => ?_⟩
  obtain ⟨px, py, hlit, hset⟩ := (s.drawSprite_hit x y n).mp hhit
  rw [hclear px py hlit] at hset
  cases hset

/-- VF is 1 when a draw in range takes some pixel from 1 to 0 (R201). -/
theorem exec_drw_vf_of_cleared {x y : Reg} {n : Fin 16} {s t : State}
    (hfits : n.val = 0 ∨ s.i.toNat + n.val ≤ 4096) (he : exec (.drw x y n) s = .next t)
    (hcleared : ∃ px py, s.disp.pixel px py = true ∧ t.disp.pixel px py = false) :
    t.v[vf].toNat = 1 := by
  obtain ⟨px, py, hset, hnow⟩ := hcleared
  have hlit : s.SpriteLights x y n px py := by
    by_contra hunlit
    rw [exec_drw_pixel_of_unlit hfits he hunlit, hset] at hnow
    cases hnow
  exact (exec_drw_vf hfits he).1 ⟨px, py, hlit, hset⟩

/-- VF is 0 when a draw in range leaves every pixel set that was (R201). -/
theorem exec_drw_vf_of_kept {x y : Reg} {n : Fin 16} {s t : State}
    (hfits : n.val = 0 ∨ s.i.toNat + n.val ≤ 4096) (he : exec (.drw x y n) s = .next t)
    (hkept : ∀ px py, s.disp.pixel px py = true → t.disp.pixel px py = true) :
    t.v[vf].toNat = 0 := by
  refine (exec_drw_vf hfits he).2 fun px py hlit => Bool.eq_false_iff.mpr fun hset => ?_
  have hnow := hkept px py hset
  rw [exec_drw_pixel_of_lit hfits he hlit, hset] at hnow
  cases hnow

/-- Settles O48: in range the lit pixels flip, out of range only the fault is taken. -/
theorem drawTogglesThePixelsOfTheSprite : Obligations.DrawTogglesThePixelsOfTheSprite := by
  unfold Obligations.DrawTogglesThePixelsOfTheSprite
  refine fun x y n s => ⟨decode_of_encode_eq rfl, fun hfits => ?drawn,
    fun hn hout => exec_addressFault_outcome (exec_drw_of_gt x y n s hn hout)⟩
  case drawn =>
    have he := exec_drw_of_fits x y n s hfits
    exact ⟨_, he, fun px py => exec_drw_pixel_of_lit hfits he,
      fun px py => exec_drw_pixel_of_unlit hfits he, rfl, rfl, rfl⟩

/-- Settles O49: only a lit pixel can go from 1 to 0, and a sprite of no rows lights none. -/
theorem drawSetsVfOnCollision : Obligations.DrawSetsVfOnCollision := by
  unfold Obligations.DrawSetsVfOnCollision
  intro x y n s hfits
  have he := exec_drw_of_fits x y n s hfits
  refine ⟨_, he, exec_drw_vf_of_cleared hfits he, exec_drw_vf_of_kept hfits he, fun hn => ?norows⟩
  case norows =>
    refine (exec_drw_vf hfits he).2 fun px py hlit => ?_
    obtain ⟨row, -, hrow, -⟩ := hlit
    omega

/-! ## Two draws -/

/-- Which pixels a sprite lights depends on memory, I and the two coordinates only (R201). -/
theorem State.spriteLights_congr {x y : Reg} {n : Fin 16} {s t : State} (hmem : t.mem = s.mem)
    (hi : t.i = s.i) (hx : t.v[x] = s.v[x]) (hy : t.v[y] = s.v[y]) (px : Fin 64) (py : Fin 32) :
    t.SpriteLights x y n px py ↔ s.SpriteLights x y n px py := by
  rw [State.SpriteLights, hmem, hi, hx, hy, State.SpriteLights]

/-- A byte that is not 0 has a set bit, so it lights a column (R202). -/
theorem exists_lit_column {b : Byte} (hb : b ≠ 0) :
    ∃ col, col < 8 ∧ b.toNat / 2 ^ (7 - col) % 2 = 1 := by
  by_contra hnone
  refine hb (BitVec.eq_of_getLsbD_eq fun j hj => ?_)
  have hbit : spriteBit b (7 - j) = false := by
    rw [spriteBit_eq, decide_eq_false_iff_not]
    exact fun h => hnone ⟨7 - j, by omega, h⟩
  rw [spriteBit, Nat.sub_sub_self (by omega)] at hbit
  exact hbit.trans BitVec.getLsbD_zero.symm

/-- A sprite with a set bit lights a pixel (R201). -/
theorem State.exists_spriteLights {x y : Reg} {n : Fin 16} {s : State}
    (h : ∃ row, row < n.val ∧ s.mem.read (s.i.toNat + row) ≠ 0) :
    ∃ px py, s.SpriteLights x y n px py := by
  obtain ⟨row, hrow, hbyte⟩ := h
  obtain ⟨col, hcol, hbit⟩ := exists_lit_column hbyte
  exact ⟨wrapColumn s.v[x] col, wrapRow s.v[y] row, row, col, hrow, hcol, hbit, rfl, rfl⟩

/-- A sprite whose bytes are all 0 lights no pixel (R201). -/
theorem State.not_spriteLights_of_zero {x y : Reg} {n : Fin 16} {s : State}
    (h : ∀ row, row < n.val → s.mem.read (s.i.toNat + row) = 0) (px : Fin 64) (py : Fin 32) :
    ¬ s.SpriteLights x y n px py := by
  rintro ⟨row, col, hrow, -, hbit, -, -⟩
  simp [h row hrow] at hbit

/-- Settles O50: the second draw lights the pixels of the first, so each pixel flips twice or never, and
its VF compares the two displays in the other direction. -/
theorem doubleDrawRestoresTheDisplay : Obligations.DoubleDrawRestoresTheDisplay := by
  unfold Obligations.DoubleDrawRestoresTheDisplay
  intro x y n s t t' hfits he hdisp hmem hi hx hy
  have hlights := State.spriteLights_congr (n := n) hmem hi hx hy
  have hfits' : n.val = 0 ∨ t'.i.toNat + n.val ≤ 4096 := hi ▸ hfits
  obtain ⟨u, hu, -⟩ := exec_cases (.drw x y n) t'
  have hrestored : u.disp = s.disp := by
    refine Display.ext_pixel _ _ fun px py => ?_
    by_cases hlit : s.SpriteLights x y n px py
    · rw [exec_drw_pixel_of_lit hfits' hu ((hlights px py).mpr hlit), hdisp,
        exec_drw_pixel_of_lit hfits he hlit, Bool.not_not]
    · rw [exec_drw_pixel_of_unlit hfits' hu (mt (hlights px py).mp hlit), hdisp,
        exec_drw_pixel_of_unlit hfits he hlit]
  have hset : (∃ px py, s.disp.pixel px py = false ∧ t.disp.pixel px py = true) →
      u.v[vf].toNat = 1 := by
    rintro ⟨px, py, hwas, hnow⟩
    exact exec_drw_vf_of_cleared hfits' hu ⟨px, py, hdisp ▸ hnow, hrestored ▸ hwas⟩
  have hkept : (∀ px py, t.disp.pixel px py = true → s.disp.pixel px py = true) →
      u.v[vf].toNat = 0 := by
    intro h
    rw [← hdisp, ← hrestored] at h
    exact exec_drw_vf_of_kept hfits' hu h
  refine ⟨u, hu, hrestored, hset, hkept, fun hclear => ⟨fun hrow => ?lit, fun hrows => ?unlit⟩⟩
  case lit =>
    obtain ⟨px, py, hlit⟩ := State.exists_spriteLights (x := x) (y := y) hrow
    have hnow := exec_drw_pixel_of_lit hfits he hlit
    rw [hclear px py hlit, Bool.not_false] at hnow
    exact hset ⟨px, py, hclear px py hlit, hnow⟩
  case unlit =>
    refine hkept fun px py hnow => ?_
    rwa [exec_drw_pixel_of_unlit hfits he (State.not_spriteLights_of_zero hrows px py)] at hnow

end Sys2Proof.Machine
end

section
/-! The key and timer instructions (44_input.md R220 to R223; 45_timers.md R241, R242), each also as a step. -/

namespace Sys2Proof.Machine

/-- Settles O51: below 16 both are skips on the key Vx numbers, from 16 up they only raise the fault. -/
theorem skipTestsTheKeyNumberedVx : Obligations.SkipTestsTheKeyNumberedVx := by
  unfold Obligations.SkipTestsTheKeyNumberedVx
  refine fun x s => ⟨decode_of_encode_eq (packXKK_eq_fixed_add_x 14 x 0x9E),
    decode_of_encode_eq (packXKK_eq_fixed_add_x 14 x 0xA1), fun k hk => ?tested, fun hout => ?faulted⟩
  case tested =>
    have hlt : s.v[x].toNat < 16 := hk ▸ k.isLt
    have hindex : k = ⟨s.v[x].toNat, hlt⟩ := Fin.ext hk.symm
    rw [hindex]
    exact ⟨(exec_skip_outcome (exec_skp_of_lt x s hlt) Iff.rfl).imp
        fun _ ⟨he, hv, hstatus, hpc, _⟩ => ⟨he, hv, hstatus, hpc⟩,
      (exec_skip_outcome (exec_sknp_of_lt x s hlt) (Iff.of_eq (Bool.not_eq_true' _))).imp
        fun _ ⟨he, hv, hstatus, hpc, _⟩ => ⟨he, hv, hstatus, hpc⟩⟩
  case faulted =>
    exact ⟨exec_addressFault_outcome (exec_skp_of_ge x s hout),
      exec_addressFault_outcome (exec_sknp_of_ge x s hout)⟩

/-- Parking changes the status only (R222). -/
theorem State.park_onlyChanges (s : State) : OnlyChanges s s.park (· ∈ [.status]) := by
  intro p hp
  cases p
  case status => exact absurd (by decide) hp
  all_goals rfl

/-- A step of Fx0A with no key down parks and ticks (R222; D3). -/
theorem step_ldVxKey_of_none {x : Reg} {s : State} (hr : s.Runs (.ldVxKey x))
    (hup : ∀ k : Fin 16, s.input.keys[k] = false) : step s = .next s.park.tick.nextInput :=
  step_of_runs_no_fault hr (exec_ldVxKey_of_none x (s.lowestKey_eq_none.mpr hup)) hr.1

/-- A key index keeps its value in a byte. -/
theorem keyByte_toNat (k : Fin 16) : (BitVec.ofNat 8 k.val).toNat = k.val := by
  rw [BitVec.toNat_ofNat]
  exact Nat.mod_eq_of_lt (by omega)

/-- Settles O52: the lowest key is loaded, and with none down the step parks and ticks. -/
theorem keyWaitLoadsTheLowestKeyOrParks : Obligations.KeyWaitLoadsTheLowestKeyOrParks := by
  unfold Obligations.KeyWaitLoadsTheLowestKeyOrParks
  refine fun x s => ⟨decode_of_encode_eq (packXKK_eq_fixed_add_x 15 x 0x0A),
    fun k hdown hlow => ?loaded, fun hup => ⟨?parked, fun hr => ?stepped⟩⟩
  case loaded =>
    obtain ⟨t, he, hx, hkept, hpc, hstatus, -⟩ :=
      exec_setV_outcome (exec_ldVxKey_of_some x ((s.lowestKey_eq_some k).mpr ⟨hdown, hlow⟩))
    exact ⟨t, he, by rw [hx, keyByte_toNat], hkept, hpc, hstatus⟩
  case parked =>
    exact ⟨_, exec_ldVxKey_of_none x (s.lowestKey_eq_none.mpr hup), s.park_onlyChanges, rfl⟩
  case stepped =>
    exact ⟨_, step_ldVxKey_of_none hr hup, by simp, by simp, by simp, by simpa using hr.1, by simp,
      by simp⟩

/-- A state with the pc, memory and fault register of one that runs `i` runs `i` too (R85 to R88). -/
theorem State.Runs.congr {s t : State} {i : Instr} (hr : s.Runs i) (hpc : t.pc = s.pc)
    (hmem : t.mem = s.mem) (hfault : t.fault = s.fault) : t.Runs i := by
  obtain ⟨hs, hin, hdecode⟩ := hr
  have hword : t.wordAtPc = s.wordAtPc := by rw [State.wordAtPc, hpc, hmem, State.wordAtPc]
  exact ⟨hfault.trans hs, by rwa [hpc], by rwa [hword]⟩

/-- Through samples with no key pressed Fx0A stays at its address and uses them up (R223). -/
theorem run_ldVxKey_idle {x : Reg} {tail : List StepInput} :
    ∀ (idle : List StepInput) (s : State), s.Runs (.ldVxKey x) → s.inputs = idle ++ tail →
      (∀ e ∈ idle, ∀ k : Fin 16, e.keys[k] = false) →
      ∃ u, Sys2Proof.core.run idle.length s = .next u ∧ u.Runs (.ldVxKey x) ∧ u.pc = s.pc ∧
        u.inputs = tail
  | [], s, hr, hin, _ => ⟨s, rfl, hr, rfl, hin⟩
  | e :: idle, s, hr, hin, hidle => by
    have hinput : s.input = e := s.input_of_scheduled e (idle ++ tail) hin
    have hstep := step_ldVxKey_of_none hr (hinput ▸ hidle e List.mem_cons_self)
    rw [State.nextInput_of_scheduled s.park.tick e (idle ++ tail) hin] at hstep
    obtain ⟨u, hrun, hu, hpc, hrest⟩ := run_ldVxKey_idle idle
      { s.park.tick with inputs := idle ++ tail } (hr.congr rfl rfl rfl) rfl
      fun e' he' => hidle e' (List.mem_cons_of_mem e he')
    exact ⟨u, (run_succ_of_next _ s _ hstep).trans hrun, hu, hpc, hrest⟩

/-- A run's last step. -/
theorem run_succ_of_run (M : Host.Core) {n : Nat} {s t : M.State} (h : M.run n s = .next t) :
    M.run (n + 1) s = M.step t := by
  induction n generalizing s with
  | zero =>
    cases h
    rw [Host.Core.run]
    cases M.step t <;> rfl
  | succ n ih =>
    rw [Host.Core.run] at h ⊢
    cases hstep : M.step s with
    | next s' => rw [hstep] at h; exact ih h
    | fault r => rw [hstep] at h; cases h
    | refused r => rw [hstep] at h; cases h

/-- A step of Fx0A whose sample has a key pressed completes with a pressed key in Vx (R222, R223). -/
theorem step_ldVxKey_of_pressed {x : Reg} {s : State} (hr : s.Runs (.ldVxKey x))
    (hdown : ∃ k : Fin 16, s.input.keys[k] = true) :
    ∃ u, step s = .next u ∧ u.status = .retired ∧ u.pc = s.pc + 2 ∧
      ∃ k : Fin 16, s.input.keys[k] = true ∧ u.v[x].toNat = k.val := by
  obtain ⟨j, hj⟩ := hdown
  cases hk : s.lowestKey with
  | none => exact absurd hj (by simp [s.lowestKey_eq_none.mp hk j])
  | some k =>
    have hstep := step_of_runs_no_fault hr (exec_ldVxKey_of_some x hk) hr.1
    refine ⟨_, hstep, by simp, by simp, k, ((s.lowestKey_eq_some k).mp hk).1, ?_⟩
    rw [State.nextInput_v, State.tick_v, State.retireNext_v, State.setV_get, if_pos rfl, keyByte_toNat]

/-- Settles O53: the idle samples are used up in place, and the next one completes the instruction. -/
theorem keyWaitCompletesOnTheFirstPressedSample :
    Obligations.KeyWaitCompletesOnTheFirstPressedSample := by
  unfold Obligations.KeyWaitCompletesOnTheFirstPressedSample
  intro x s idle inp rest hr hin hidle hdown
  obtain ⟨u, hrun, hu, hpc, hrest⟩ := run_ldVxKey_idle idle s hr hin hidle
  have hinput : u.input = inp := u.input_of_scheduled inp rest hrest
  obtain ⟨w, hstep, hstatus, hwpc, hkey⟩ := step_ldVxKey_of_pressed hu (hinput ▸ hdown)
  rw [hpc] at hwpc
  rw [hinput] at hkey
  exact ⟨⟨u, hrun, hu, hpc⟩, w, (run_succ_of_run Sys2Proof.core hrun).trans hstep, hstatus, hwpc, hkey⟩

/-- Settles O55: the tick of the step counts down the timer its instruction has written. -/
theorem writeTimersBeforeTheTick : Obligations.WriteTimersBeforeTheTick := by
  unfold Obligations.WriteTimersBeforeTheTick
  refine fun x s => ⟨decode_of_encode_eq (packXKK_eq_fixed_add_x 15 x 0x15),
    decode_of_encode_eq (packXKK_eq_fixed_add_x 15 x 0x18), ⟨_, rfl, rfl, rfl, rfl, rfl⟩,
    ⟨_, rfl, rfl, rfl, rfl, rfl⟩, fun hr => ?delay, fun hr => ?sound⟩
  case delay => exact ⟨_, step_of_runs_no_fault hr rfl hr.1, by simp⟩
  case sound =>
    exact ⟨_, step_of_runs_no_fault hr rfl hr.1, by simp,
      (State.tick_nextInput_sound _).trans Nat.pos_iff_ne_zero⟩

end Sys2Proof.Machine
end
